-- ==== Sys2Proof/Word.lean ====
section
/-! DEFINITION. The widths of the DES core's values (00_scope.md R5, R9). Bit vectors hold only what the spec treats
as bits. Bit `v<i>` of the spec (1-based, most significant first, R6) is read by `Machine.bitAt`. -/

namespace Sys2Proof

/-- One byte: the unit of a host transaction (20_memory.md R53). -/
abbrev Byte := BitVec 8

/-- A host register address, 0x00..0xFF (20_memory.md R50). -/
abbrev Addr := BitVec 8

/-- A transaction word `T` of format BUS (30_encoding.md R70). -/
abbrev BusWord := BitVec 17

/-- A 64-bit block or key (00_scope.md R5). -/
abbrev Block64 := BitVec 64

/-- A half-block, `L` or `R` (00_scope.md R5). -/
abbrev Half := BitVec 32

/-- A key half, `C` or `D` (00_scope.md R5). -/
abbrev KeyHalf := BitVec 28

/-- A subkey, one entry of the subkey file (00_scope.md R5). -/
abbrev Subkey := BitVec 48

/-- The sixteen subkeys: entry `i` (0-based) is the spec's `KS[i+1]` (10_state.md R22; log 8). -/
abbrev SubkeyFile := Vector Subkey 16

end Sys2Proof
end

