-- ==== Sys2Proof/Config.lean ====
section
/-! DEFINITION. What the implementation fixes (nothing beyond its name: 00_scope.md R5 makes every size fixed) and the
FREE VALUES the spec leaves open. A free value is an opaque constant with no body: no proof can see what it is, so a
claim about it holds whatever it is. -/

namespace Sys2Proof

/-- The block's name and version (00_scope.md R1). No register shows them. -/
def Config.blockName : String := "DESC"

/-- The block's version (00_scope.md R1). -/
def Config.blockVersion : String := "DESC-1"

/-- `draw8()` (00_scope.md R8): "an arbitrary byte chosen afresh at each evaluation, under no law". The argument is
the count of draws taken before it. DESIGN CHOICE, log 4; safe. -/
opaque Config.draw8 : Nat → Byte

/-- KS[i+1] after a reset: "unspecified (not reset)" (70_reset_and_hazards.md R290). The first argument tells one
reset from another. DESIGN CHOICE, log 3. -/
opaque Config.resetSubkey : Nat → Fin 16 → Subkey

/-- MODE after a reset: "unspecified; unobservable" (R290); true stands for DEC. DESIGN CHOICE, log 3. -/
opaque Config.resetModeIsDec : Nat → Bool

/-- C after a reset: "unspecified; unobservable" (R290). DESIGN CHOICE, log 3. -/
opaque Config.resetC : Nat → KeyHalf

/-- D after a reset: "unspecified; unobservable" (R290). DESIGN CHOICE, log 3. -/
opaque Config.resetD : Nat → KeyHalf

/-- L after a reset: "unspecified; unobservable" (R290). DESIGN CHOICE, log 3. -/
opaque Config.resetL : Nat → Half

/-- R after a reset: "unspecified; unobservable" (R290). DESIGN CHOICE, log 3. -/
opaque Config.resetR : Nat → Half

end Sys2Proof
end

