-- ==== Sys2Proof/Syntax.lean ====
section
/-! DEFINITION. The instructions: one constructor per row of spec/opcode_table.json (30_encoding.md R70, R72, R78).
Two formats: BUS (one host transaction) and CMD (the byte of a write to the CMD register). -/

namespace Sys2Proof

/-- An instruction of the DES core: a host transaction, or a command (a write of its byte to CMD, address 0x10). -/
inductive Instr where
  /-- `WR addr, data`, format BUS, R220. -/
  | wr (addr : Addr) (data : Byte)
  /-- `RD addr`, format BUS, R221. -/
  | rd (addr : Addr)
  /-- NOP, command 0x00, R225. -/
  | nop
  /-- KEYSCHED, command 0x01, R137. -/
  | keysched
  /-- ENCRYPT, command 0x02, R197. -/
  | encrypt
  /-- DECRYPT, command 0x03, R198. -/
  | decrypt
  /-- CLRERR, command 0x04, R226. -/
  | clrerr
  deriving DecidableEq, Repr

/-- The opcodes of format CMD (30_encoding.md R72): what a legal CMD byte names. -/
inductive CmdOp where
  | nop | keysched | encrypt | decrypt | clrerr
  deriving DecidableEq, Repr

/-- The instruction a command opcode stands for. -/
def CmdOp.toInstr : CmdOp → Instr
  | .nop => .nop
  | .keysched => .keysched
  | .encrypt => .encrypt
  | .decrypt => .decrypt
  | .clrerr => .clrerr

/-- An encoded instruction: a transaction word of format BUS (R70) or a command byte of format CMD (R71). -/
inductive EncodedWord where
  | bus (T : BusWord)
  | cmd (c : Byte)
  deriving DecidableEq, Repr

/-- Address of the CMD register (20_memory.md R51). -/
def cmdAddr : Addr := 0x10

end Sys2Proof
end

