-- ==== Sys2Proof/WellFormed.lean ====
section
/-! DEFINITION. Well-formedness checks. The fields of `Instr` have the exact widths of the encoding, so every value of
`Instr` is an encodable instruction ("Every 17-bit word is a valid transaction", 30_encoding.md R70): there is nothing
left to check on an instruction's encoding. What can be ill formed is raw data: a permutation table (40 R110), an S-box
row (42 R174), a command byte (30 R74), a host's key text or block (44 R240, R241), and a transaction that does not
keep the host's duty (44 R245). -/

namespace Sys2Proof

/-- A table is valid for an `n`-bit input when every entry lies in 1..n (40_bit_engines.md R110). -/
def tableValid (n : Nat) {m : Nat} (T : Vector Nat m) : Bool :=
  T.toList.all fun e => decide (1 ≤ e) && decide (e ≤ n)

/-- A permutation table with `m` entries that is valid for an `n`-bit input: the data and its check together, so that no
table of the block can raise the precondition violation of 40_bit_engines.md R102 (R110; log 11). -/
structure PermTable (n m : Nat) where
  entries : Vector Nat m
  valid : tableValid n entries = true

/-- One row of an S-box holds each of 0..15 exactly once (42_round_function.md R174). -/
def sboxRowValid (row : List (BitVec 4)) : Bool :=
  row.length == 16 && (List.range 16).all fun x => row.contains (BitVec.ofNat 4 x)

/-- A command byte is legal when RSV = 0 and OP is in 0x0..0x4 (30_encoding.md R71, R72, R74). -/
def commandByteLegal (c : Byte) : Bool :=
  c.extractLsb' 4 4 == 0#4 && decide ((c.extractLsb' 0 4).toNat < 5)

/-- The part of the host's duty that a transaction alone can show: a CMD write uses "OP 0..4 with RSV = 0"
(44_host_interface.md R245). The wait for `BUSY = 0` is in `Machine.dutyKept`. -/
def Instr.meetsHostDuty : Instr → Bool
  | .wr addr data => addr != cmdAddr || commandByteLegal data
  | .rd _ => true
  | .nop => true
  | .keysched => true
  | .encrypt => true
  | .decrypt => true
  | .clrerr => true

/-- A key text fits when it has at most 8 bytes (44_host_interface.md R240). -/
def keyTextFits (text : List Byte) : Bool := decide (text.length ≤ 8)

/-- A host block "never exceeds capacity": at most 8 bytes (44_host_interface.md R241, R243). -/
def hostBlockFits (bytes : List Byte) : Bool := decide (bytes.length ≤ 8)

end Sys2Proof
end

