-- ==== Sys2Proof/Decode.lean ====
section
/-! DEFINITION. Decoding and encoding of transactions and commands (30_encoding.md). Decoding of a BUS word is total;
decoding of a CMD byte refuses the reserved bytes by name (R74). -/

namespace Sys2Proof

/-- Why a command byte is no command: the two reserved encodings of 30_encoding.md R74. Neither stops the machine: a
write of such a byte records ILLEGAL_CMD (44_host_interface.md R224). -/
inductive DecodeError where
  /-- `CMD[7:4] ≠ 0`. -/
  | reservedBits
  /-- `CMD[7:4] = 0` and `CMD[3:0]` in 0x5..0xF. -/
  | reservedOpcode
  deriving DecidableEq, Repr

/-- Decode a 17-bit transaction word: W = T[16], ADDR = T[15:8], WDATA = T[7:0] (R70). Total: "Every 17-bit word is a
valid transaction". WDATA is ignored when W = 0. -/
def decodeBus (T : BusWord) : Instr :=
  if T.extractLsb' 16 1 = 1#1 then .wr (T.extractLsb' 8 8) (T.extractLsb' 0 8) else .rd (T.extractLsb' 8 8)

/-- Decode a command byte: OP = CMD[3:0], RSV = CMD[7:4] (R71, R72, R74). -/
def decodeCmdByte (c : Byte) : Except DecodeError CmdOp :=
  if c.extractLsb' 4 4 ≠ 0#4 then .error .reservedBits
  else
    match (c.extractLsb' 0 4).toNat with
    | 0 => .ok .nop
    | 1 => .ok .keysched
    | 2 => .ok .encrypt
    | 3 => .ok .decrypt
    | 4 => .ok .clrerr
    | _ => .error .reservedOpcode

/-- Decode an encoded instruction of either format. -/
def decode : EncodedWord → Except DecodeError Instr
  | .bus T => .ok (decodeBus T)
  | .cmd c => (decodeCmdByte c).map CmdOp.toInstr

/-- The byte of a command opcode (R72). -/
def CmdOp.byte : CmdOp → Byte
  | .nop => 0x00
  | .keysched => 0x01
  | .encrypt => 0x02
  | .decrypt => 0x03
  | .clrerr => 0x04

/-- `T = 0x10000 | addr<<8 | data` (30_encoding.md R76). -/
def encodeWr (addr : Addr) (data : Byte) : BusWord :=
  0x10000#17 ||| addr.setWidth 17 <<< 8 ||| data.setWidth 17

/-- `T = addr<<8` (30_encoding.md R76): the ignored WDATA is "written as 0x00" (R70). -/
def encodeRd (addr : Addr) : BusWord := addr.setWidth 17 <<< 8

/-- The word of an instruction, from the same tables. -/
def encode : Instr → EncodedWord
  | .wr addr data => .bus (encodeWr addr data)
  | .rd addr => .bus (encodeRd addr)
  | .nop => .cmd (CmdOp.byte .nop)
  | .keysched => .cmd (CmdOp.byte .keysched)
  | .encrypt => .cmd (CmdOp.byte .encrypt)
  | .decrypt => .cmd (CmdOp.byte .decrypt)
  | .clrerr => .cmd (CmdOp.byte .clrerr)

/-- The transaction that carries an encoded instruction on the host bus: a BUS word itself, and a command byte as
`WR CMD, byte` ("`CMD op` expands to `WR CMD, op`", 30_encoding.md R77). -/
def EncodedWord.transaction : EncodedWord → BusWord
  | .bus T => T
  | .cmd c => encodeWr cmdAddr c

/-- The encoded word that `nbits` bits numbered as spec/opcode_table.json numbers them stand for: a row of format CMD
has one byte, a row of format BUS has a 17-bit word (three whole bytes, whose bits 23..17 carry no wire; log 6). -/
def tableWord (nbits w : Nat) : EncodedWord :=
  if nbits ≤ 8 then .cmd (BitVec.ofNat 8 w) else .bus (BitVec.ofNat 17 w)

/-- The instruction the decoder reads from an opcode-table word; none where it refuses (a reserved command byte). -/
def decodeTableWord (nbits w : Nat) : Option Instr :=
  match decode (tableWord nbits w) with
  | .ok i => some i
  | .error _ => none

end Sys2Proof
end

