-- ==== Sys2Proof/Machine/State.lean ====
section
/-! DEFINITION. The architectural state of the DES core (10_state.md), its reset value (70_reset_and_hazards.md R290),
and the reasons a step can stop. -/

namespace Sys2Proof.Machine

/-- MODE (10_state.md R28): which order CI_ROUND takes the subkeys in. -/
inductive Mode where
  | enc | dec
  deriving DecidableEq, Repr

/-- ERRCODE (10_state.md R26, 60_exceptions.md R260): a 2-bit field, all four values named. -/
inductive ErrCode where
  | none | illegalCmd | noSubkeys | busyWrite
  deriving DecidableEq, Repr

/-- The sequencer's state (10_state.md R27). Round `r` in 1..16 is held as `i = r - 1 : Fin 16` (log 8). -/
inductive Phase where
  | idle
  | ksSplit
  | ksRound (i : Fin 16)
  | ciInit
  | ciRound (i : Fin 16)
  | ciFinal
  deriving DecidableEq, Repr

/-- One event of a run: what the host or the engine does at one step (70_reset_and_hazards.md R293, R291; log 1). -/
inductive Input where
  /-- The host issues the transaction word `T`. -/
  | bus (T : BusWord)
  /-- The engine has this step: it takes the internal step that `phase` selects, where one is enabled. -/
  | engine
  /-- Reset is asserted. -/
  | reset
  deriving DecidableEq, Repr

/-- The whole state. The first thirteen fields are the spec's (10_state.md §1); the last three are the model's own. -/
@[ext]
structure State where
  /-- KEY, 64 bits (R20). -/
  key : Block64
  /-- DATA, 64 bits (R21). -/
  data : Block64
  /-- KS[1..16], 48 bits each (R22): entry `i` is `KS[i+1]`. -/
  ks : SubkeyFile
  /-- KSV (R23). -/
  ksv : Bool
  /-- DONE (R25). -/
  done : Bool
  /-- ERR (R26). -/
  err : Bool
  /-- ERRCODE (R26). -/
  errcode : ErrCode
  /-- `phase` (R27); BUSY is `phase ≠ IDLE` (R24). -/
  phase : Phase
  /-- MODE (R28). -/
  mode : Mode
  /-- C, the left 28-bit key half (R29). -/
  c : KeyHalf
  /-- D, the right 28-bit key half (R29). -/
  d : KeyHalf
  /-- L, the left 32-bit half-block (R30). -/
  l : Half
  /-- R, the right 32-bit half-block (R30). -/
  r : Half
  /-- The MODEL's own: the events of the run still to come, oldest first (log 1). -/
  inputs : List Input
  /-- The MODEL's own: every byte a read has returned to the host, oldest first (log 5). -/
  reads : List Byte
  /-- The MODEL's own: how many free values have been drawn (log 4). -/
  draws : Nat
  deriving DecidableEq, Repr

/-- Why the machine stops. -/
inductive Fault where
  /-- `fault PreconditionViolation` (40_bit_engines.md R102, 60_exceptions.md R268): raised by `getBit`, `putBit` and
  `permute` on an index or a table entry outside 1..n. No step of the block can raise it, because every table of the
  block is valid (R110). Safe: a fault gives no value. -/
  | preconditionViolation
  deriving DecidableEq, Repr

/-- Why an instruction has no meaning. -/
inductive Refusal where
  /-- Raised by `exec` for an instruction that has no meaning in the model yet; every instruction has one, so nothing
  raises it. Safe. -/
  | notModelled (mnemonic : String)
  deriving DecidableEq, Repr

/-- BUSY: `phase ≠ IDLE` (10_state.md R24). -/
def State.busy (s : State) : Bool := decide (s.phase ≠ .idle)

/-- The state of 70_reset_and_hazards.md R290, entered from `s`. KEY and DATA are zero, KSV, DONE, ERR and ERRCODE are
zero, `phase` is IDLE; the unspecified elements take free values told apart by the draw counter (log 3, log 10). The
events still to come and the bytes the host has already read are no state of the block and stay. -/
def State.resetFrom (s : State) : State where
  key := 0
  data := 0
  ks := Vector.ofFn fun i => Config.resetSubkey s.draws i
  ksv := false
  done := false
  err := false
  errcode := .none
  phase := .idle
  mode := if Config.resetModeIsDec s.draws then .dec else .enc
  c := Config.resetC s.draws
  d := Config.resetD s.draws
  l := Config.resetL s.draws
  r := Config.resetR s.draws
  inputs := s.inputs
  reads := s.reads
  draws := s.draws + 1

/-- The machine right after reset (R290): it waits in IDLE for a host transaction. The values of KS, MODE, C, D, L and
R, which the spec leaves unspecified, are the free values number 0 of Config (log 3); no event is placed, nothing has
been read, and free value number 0 is used up (log 4). -/
def State.reset : State where
  key := 0
  data := 0
  ks := Vector.ofFn fun i => Config.resetSubkey 0 i
  ksv := false
  done := false
  err := false
  errcode := .none
  phase := .idle
  mode := if Config.resetModeIsDec 0 then .dec else .enc
  c := Config.resetC 0
  d := Config.resetD 0
  l := Config.resetL 0
  r := Config.resetR 0
  inputs := []
  reads := []
  draws := 1

end Sys2Proof.Machine
end

