-- ==== Sys2Proof/Machine/BitEngines.lean ====
section
/-! DEFINITION. Bit accessor, permutation engine, cyclic shifter, slices (40_bit_engines.md). Bits are numbered as
00_scope.md R6 says: `v<1>` is the most significant bit of an n-bit `v`, `v<n>` the least. `getBit`, `putBit` and
`permute` are the spec's engines on arbitrary arguments, with their fault; `bitAt`, `setBitAt` and `gather` are what
they compute on arguments in range, and what the block applies to its own valid tables (R110; log 11). -/

namespace Sys2Proof.Machine

/-- `v<i>`, for `i` in 1..n (00_scope.md R6). Outside that range no rule uses it. -/
def bitAt {n : Nat} (v : BitVec n) (i : Nat) : Bool := v.getMsbD (i - 1)

/-- `v` with `v<i>` set to `x`, for `i` in 1..n. -/
def setBitAt {n : Nat} (v : BitVec n) (i : Nat) (x : Bool) : BitVec n :=
  let m := 1#n <<< (n - i)
  if x then v ||| m else v &&& ~~~m

/-- `getBit(v, i)` (R100), with the precondition violation of R102. -/
def getBit {n : Nat} (v : BitVec n) (i : Nat) : Except Fault Bool :=
  if 1 ≤ i ∧ i ≤ n then .ok (bitAt v i) else .error .preconditionViolation

/-- `putBit(v, i, x)` (R101), with the precondition violation of R102. -/
def putBit {n : Nat} (v : BitVec n) (i : Nat) (x : Bool) : Except Fault (BitVec n) :=
  if 1 ≤ i ∧ i ≤ n then .ok (setBitAt v i x) else .error .preconditionViolation

/-- The m-bit value whose bit `i` is `v<T[i]>`, for a table valid for `v` (R103, R104). -/
def gather {n m : Nat} (v : BitVec n) (T : Vector Nat m) : BitVec m :=
  (BitVec.ofBoolListBE (T.toList.map (bitAt v))).cast (by simp)

/-- `permute(v, T)` for an arbitrary table (R103): the fault of R102 if an entry is out of range. -/
def permute {n m : Nat} (v : BitVec n) (T : Vector Nat m) : Except Fault (BitVec m) :=
  if tableValid n T then .ok (gather v T) else .error .preconditionViolation

/-- `permute(v, T)` for a table of the block: its validity is carried by `T`, so there is no fault (R110). -/
def applyTable {n m : Nat} (T : PermTable n m) (v : BitVec n) : BitVec m := gather v T.entries

/-- One left rotation: `rot1(v)<i> = v<i+1>` and `rot1(v)<n> = v<1>` (R105). -/
def rot1 {n : Nat} (v : BitVec n) : BitVec n := v.rotateLeft 1

/-- `rotl(v, n, k)`: `k` single-position left rotations (R105). -/
def rotl {n : Nat} (v : BitVec n) : Nat → BitVec n
  | 0 => v
  | k + 1 => rotl (rot1 v) k

/-- `v<a .. a+w-1>`, the `w`-bit value starting at bit `a` (00_scope.md R6). -/
def slice {n : Nat} (v : BitVec n) (a w : Nat) : BitVec w := v.extractLsb' (n + 1 - a - w) w

/-- Concatenation `a ++ b`: bits 1..m are `a`, bits m+1..m+n are `b` (00_scope.md R8, R107). -/
def concat {m n k : Nat} (a : BitVec m) (b : BitVec n) (h : m + n = k := by rfl) : BitVec k := (a ++ b).cast h

/-- Byte `j` of a value, `v<8j+1 .. 8j+8>` (20_memory.md R52). -/
def byteOf {n : Nat} (v : BitVec n) (j : Nat) : Byte := slice v (8 * j + 1) 8

/-- A 64-bit register with byte `j` replaced: `v<8j+1 .. 8j+8> <- b` (44_host_interface.md R222, R223). -/
def setByte (v : Block64) (j : Fin 8) (b : Byte) : Block64 :=
  (v &&& ~~~(0xFF#64 <<< (56 - 8 * j.val))) ||| (b.setWidth 64 <<< (56 - 8 * j.val))

end Sys2Proof.Machine
end

