-- ==== Sys2Proof/Machine/Flags.lean ====
section
/-! DEFINITION. The status views (10_state.md R32): STATUS and the ERRCODE register, computed from the flags. -/

namespace Sys2Proof.Machine

/-- The 2-bit field ERRCODE of a code (60_exceptions.md R260). -/
def ErrCode.bits : ErrCode → BitVec 2
  | .none => 0
  | .illegalCmd => 1
  | .noSubkeys => 2
  | .busyWrite => 3

/-- STATUS: `0000 ++ ERR ++ DONE ++ KSV ++ BUSY` (44_host_interface.md R230). -/
def statusByte (s : State) : Byte :=
  BitVec.cast (by rfl)
    (0#4 ++ BitVec.ofBool s.err ++ BitVec.ofBool s.done ++ BitVec.ofBool s.ksv ++ BitVec.ofBool s.busy)

/-- The ERRCODE register: `zext_8(ERRCODE)` (44_host_interface.md R231). -/
def errcodeByte (s : State) : Byte := s.errcode.bits.setWidth 8

end Sys2Proof.Machine
end

