-- ==== Sys2Proof/Machine/Operands.lean ====
section
/-! DEFINITION. The one operand that selects something: ADDR, by the register map (20_memory.md R51, R56). -/

namespace Sys2Proof.Machine

/-- What an address names (20_memory.md R51). -/
inductive RegSel where
  /-- KEY byte `j`, 0x00+j. -/
  | key (j : Fin 8)
  /-- DATA byte `j`, 0x08+j. -/
  | data (j : Fin 8)
  /-- CMD, 0x10. -/
  | cmd
  /-- STATUS, 0x11. -/
  | status
  /-- ERRCODE, 0x12. -/
  | errcode
  /-- Byte `j` of window slot `i`, 0x40 + 8·i + j: a subkey byte for `j` in 0..5, padding for 6 and 7 (R56). -/
  | window (i : Fin 16) (j : Fin 8)
  /-- 0x13..0x3F and 0xC0..0xFF. -/
  | unmapped
  deriving DecidableEq, Repr

/-- The register map (R51). Slot `i` of the window holds `KS[i+1]` (R56, 10_state.md R22). -/
def selectReg (a : Addr) : RegSel :=
  if h : a.toNat < 0x08 then .key ⟨a.toNat, h⟩
  else if h : a.toNat < 0x10 then .data ⟨a.toNat - 0x08, by omega⟩
  else if a.toNat = 0x10 then .cmd
  else if a.toNat = 0x11 then .status
  else if a.toNat = 0x12 then .errcode
  else if a.toNat < 0x40 then .unmapped
  else if h : a.toNat < 0xC0 then
    .window ⟨(a.toNat - 0x40) / 8, by omega⟩ ⟨(a.toNat - 0x40) % 8, by omega⟩
  else .unmapped

/-- Address of KEY byte `j` (30_encoding.md R76). -/
def keyAddr (j : Fin 8) : Addr := BitVec.ofNat 8 j.val

/-- Address of DATA byte `j` (30_encoding.md R76). -/
def dataAddr (j : Fin 8) : Addr := BitVec.ofNat 8 (0x08 + j.val)

/-- Address of STATUS. -/
def statusAddr : Addr := 0x11

/-- Address of ERRCODE. -/
def errcodeAddr : Addr := 0x12

/-- `SK(r, j) = 0x40 + 8·(r−1) + j`, with `i = r − 1` (30_encoding.md R76). -/
def windowAddr (i : Fin 16) (j : Fin 8) : Addr := BitVec.ofNat 8 (0x40 + 8 * i.val + j.val)

end Sys2Proof.Machine
end

