-- ==== Sys2Proof/Machine/Ops.lean ====
section
/-! DEFINITION. The shared operations: recording an error (this machine's exception, 60_exceptions.md R261) and its
clearing (R266), the refusal of writes while busy (44_host_interface.md R220), the register accesses, and the delivery
of a read's byte to the host. -/

namespace Sys2Proof.Machine

/-- `raise Error(code)` (60_exceptions.md R261): the first error since the last clear is kept. It never transfers
control (00_scope.md R8). -/
def raiseError (code : ErrCode) (s : State) : State :=
  if s.err then s else { s with err := true, errcode := code }

/-- The return from the error state (60_exceptions.md R266): CLRERR's effect (44_host_interface.md R226). -/
def clearError (s : State) : State := { s with err := false, errcode := .none }

/-- Every host write passes here: while `BUSY = 1` it is dropped and BUSY_WRITE recorded, before it is decoded
(44_host_interface.md R220, 60_exceptions.md R263). -/
def guardedWrite (effect : State → State) (s : State) : State :=
  if s.busy then raiseError .busyWrite s else effect s

/-- Write of KEY byte `j`, taken with `BUSY = 0` (44_host_interface.md R222): clears KSV, even for the same value. -/
def writeKeyByte (j : Fin 8) (b : Byte) (s : State) : State := { s with key := setByte s.key j b, ksv := false }

/-- Write of DATA byte `j`, taken with `BUSY = 0` (44_host_interface.md R223). -/
def writeDataByte (j : Fin 8) (b : Byte) (s : State) : State := { s with data := setByte s.data j b }

/-- What a read returns: a byte the rules fix, or a draw (00_scope.md R8). -/
inductive ReadValue where
  | byte (b : Byte)
  | draw
  deriving DecidableEq, Repr

/-- RDATA of a read of `sel` (44_host_interface.md R221, R228 to R232; 20_memory.md R56, R57). -/
def readReg (sel : RegSel) (s : State) : ReadValue :=
  match sel with
  | .key j => .byte (byteOf s.key j.val)
  | .data j => if s.busy then .draw else .byte (byteOf s.data j.val)
  | .cmd => .byte 0x00
  | .status => .byte (statusByte s)
  | .errcode => .byte (errcodeByte s)
  | .window i j =>
    if 6 ≤ j.val then .byte 0x00
    else if !s.busy && s.ksv then .byte (byteOf s.ks[i] j.val)
    else .draw
  | .unmapped => .byte 0x00

/-- Give RDATA to the host (30_encoding.md R70): the byte joins the bytes read so far, and a draw takes the next free
value. No register of the block changes (20_memory.md R55). -/
def deliver (v : ReadValue) (s : State) : State :=
  match v with
  | .byte b => { s with reads := s.reads ++ [b] }
  | .draw => { s with reads := s.reads ++ [Config.draw8 s.draws], draws := s.draws + 1 }

end Sys2Proof.Machine
end

