-- ==== Sys2Proof/Machine/RoundFunction.lean ====
section
/-! DEFINITION. The round function F (42_round_function.md): expansion, key mixing, S-boxes, P. Pure; no state. -/

namespace Sys2Proof.Machine

/-- `E(x)` (R160). -/
def expand (x : Half) : Subkey := applyTable eTable x

/-- Key mixing: `X = E(Rin) xor K` (R162). -/
def mixKey (x : Half) (k : Subkey) : Subkey := expand x ^^^ k

/-- The 6-bit segment that S-box `b` reads: `X<6b+1 .. 6b+6>` (R163). -/
def segment (x : Subkey) (b : Fin 8) : BitVec 6 := slice x (6 * b.val + 1) 6

/-- `row = 2·B<1> + B<6>` (R164). -/
def sboxRow (seg : BitVec 6) : Nat := 2 * (bitAt seg 1).toNat + (bitAt seg 6).toNat

/-- `col = 8·B<2> + 4·B<3> + 2·B<4> + B<5>` (R164). -/
def sboxCol (seg : BitVec 6) : Nat :=
  8 * (bitAt seg 2).toNat + 4 * (bitAt seg 3).toNat + 2 * (bitAt seg 4).toNat + (bitAt seg 5).toNat

/-- Row 0..3 and column 0..15 index a 64-entry table (R164, R174). -/
theorem sboxIndex_lt (seg : BitVec 6) : 16 * sboxRow seg + sboxCol seg < 64 := by
  have h1 := Bool.toNat_le (bitAt seg 1)
  have h2 := Bool.toNat_le (bitAt seg 2)
  have h3 := Bool.toNat_le (bitAt seg 3)
  have h4 := Bool.toNat_le (bitAt seg 4)
  have h5 := Bool.toNat_le (bitAt seg 5)
  have h6 := Bool.toNat_le (bitAt seg 6)
  unfold sboxRow sboxCol
  omega

/-- `substitute(B, b) = S_b[row][col]` (R164). -/
def substitute (seg : BitVec 6) (b : Fin 8) : BitVec 4 :=
  (sbox b)[16 * sboxRow seg + sboxCol seg]'(sboxIndex_lt seg)

/-- The eight 4-bit results in box order, each most significant bit first (R173). -/
def sboxLayer (x : Subkey) : Half :=
  BitVec.cast (by rfl) (substitute (segment x 0) 0 ++ substitute (segment x 1) 1 ++ substitute (segment x 2) 2 ++
    substitute (segment x 3) 3 ++ substitute (segment x 4) 4 ++ substitute (segment x 5) 5 ++
    substitute (segment x 6) 6 ++ substitute (segment x 7) 7)

/-- `F(Rin, K)` (R176). -/
def roundF (x : Half) (k : Subkey) : Half := applyTable pTable (sboxLayer (mixKey x k))

end Sys2Proof.Machine
end

