-- ==== Sys2Proof/Machine/KeyScheduler.lean ====
section
/-! DEFINITION. The key scheduler (41_key_scheduler.md): the key schedule as a function, the command KEYSCHED, and its
internal steps. -/

namespace Sys2Proof.Machine

/-- The subkey of a pair of halves: `permute(C ++ D, PC2)` (R134; 40_bit_engines.md R107). -/
def compress (c d : KeyHalf) : Subkey := applyTable pc2 (concat c d)

/-- The halves (C, D) after `r` rounds of the schedule of `key` (R135, R136): round-0 halves from PC-1, then one
rotation by SHIFT per round. There are sixteen rounds; beyond them nothing rotates. -/
def keyHalves (key : Block64) : Nat → KeyHalf × KeyHalf
  | 0 => (applyTable pc1c key, applyTable pc1d key)
  | r + 1 =>
    if h : r < 16 then
      (rotl (keyHalves key r).1 shiftSchedule[r], rotl (keyHalves key r).2 shiftSchedule[r])
    else keyHalves key r

/-- Subkey `K[i+1]` of `KeySchedule(key)`, from the rotated halves (R135). -/
def subkeyOf (key : Block64) (i : Fin 16) : Subkey :=
  compress (keyHalves key (i.val + 1)).1 (keyHalves key (i.val + 1)).2

/-- `KeySchedule(key)` (R135). -/
def keySchedule (key : Block64) : SubkeyFile :=
  #v[subkeyOf key 0, subkeyOf key 1, subkeyOf key 2, subkeyOf key 3,
    subkeyOf key 4, subkeyOf key 5, subkeyOf key 6, subkeyOf key 7,
    subkeyOf key 8, subkeyOf key 9, subkeyOf key 10, subkeyOf key 11,
    subkeyOf key 12, subkeyOf key 13, subkeyOf key 14, subkeyOf key 15]

/-- Acceptance of KEYSCHED, when its write is taken with `BUSY = 0` (R137). -/
def acceptKeysched (s : State) : State := { s with ksv := false, done := false, phase := .ksSplit }

/-- KEYSCHED: the write of 0x01 to CMD (R137). -/
def execKeysched (s : State) : Host.Outcome State Fault Refusal := .next (guardedWrite acceptKeysched s)

/-- Internal step at `phase = KS_SPLIT` (R138). -/
def ksSplitStep (s : State) : State :=
  { s with c := applyTable pc1c s.key, d := applyTable pc1d s.key, phase := .ksRound 0 }

/-- Completion of KEYSCHED, as part of the KS_ROUND(16) step (R140). -/
def completeKeysched (s : State) : State := { s with ksv := true, done := true, phase := .idle }

/-- Internal step at `phase = KS_ROUND(i+1)` (R139): the subkey is taken from the rotated halves. -/
def ksRoundStep (i : Fin 16) (s : State) : State :=
  let c := rotl s.c shiftSchedule[i]
  let d := rotl s.d shiftSchedule[i]
  let t := { s with c := c, d := d, ks := s.ks.set i (compress c d) }
  if h : i.val + 1 < 16 then { t with phase := .ksRound ⟨i.val + 1, h⟩ } else completeKeysched t

end Sys2Proof.Machine
end

