-- ==== Sys2Proof/Machine/BlockCipher.lean ====
section
/-! DEFINITION. The Feistel block cipher (43_block_cipher.md): the cipher as a function, the commands ENCRYPT and
DECRYPT, and their internal steps. -/

namespace Sys2Proof.Machine

/-- The subkey of round `i+1`: `KS[r]` for encryption, `KS[17 − r]` for decryption (R194). -/
def roundKey (ks : SubkeyFile) (mode : Mode) (i : Fin 16) : Subkey :=
  match mode with
  | .enc => ks[i]
  | .dec => ks[i.rev]

/-- One round: `(L, R) <- (R, L xor F(R, k))`, both from the pre-round halves (R193). -/
def feistelRound (k : Subkey) (lr : Half × Half) : Half × Half := (lr.2, lr.1 ^^^ roundF lr.2 k)

/-- The halves after `r` rounds (R193, R196). There are sixteen rounds; beyond them nothing changes. -/
def feistelRounds (ks : SubkeyFile) (mode : Mode) (start : Half × Half) : Nat → Half × Half
  | 0 => start
  | r + 1 =>
    if h : r < 16 then feistelRound (roundKey ks mode ⟨r, h⟩) (feistelRounds ks mode start r)
    else feistelRounds ks mode start r

/-- `L0 = IP(block)<1..32>`, `R0 = IP(block)<33..64>` (R192). -/
def initialHalves (block : Block64) : Half × Half :=
  (slice (applyTable ipTable block) 1 32, slice (applyTable ipTable block) 33 32)

/-- `FP(R ++ L)`: right then left (R195). -/
def finalBlock (lr : Half × Half) : Block64 := applyTable fpTable (concat lr.2 lr.1)

/-- `Crypt(block, K[1..16], mode)` (R196). -/
def crypt (block : Block64) (ks : SubkeyFile) (mode : Mode) : Block64 :=
  finalBlock (feistelRounds ks mode (initialHalves block) 16)

/-- `Encrypt(block, key)` (R196). -/
def encryptBlock (block key : Block64) : Block64 := crypt block (keySchedule key) .enc

/-- `Decrypt(block, key)` (R196). -/
def decryptBlock (block key : Block64) : Block64 := crypt block (keySchedule key) .dec

/-- Acceptance of ENCRYPT or DECRYPT, when its write is taken with `BUSY = 0` (R197, R198): refused with NO_SUBKEYS
while `KSV = 0`, and then no other state changes. -/
def acceptCipher (mode : Mode) (s : State) : State :=
  if s.ksv then { s with mode := mode, done := false, phase := .ciInit } else raiseError .noSubkeys s

/-- ENCRYPT: the write of 0x02 to CMD (R197). -/
def execEncrypt (s : State) : Host.Outcome State Fault Refusal := .next (guardedWrite (acceptCipher .enc) s)

/-- DECRYPT: the write of 0x03 to CMD (R198). -/
def execDecrypt (s : State) : Host.Outcome State Fault Refusal := .next (guardedWrite (acceptCipher .dec) s)

/-- Internal step at `phase = CI_INIT` (R199). -/
def ciInitStep (s : State) : State :=
  { s with l := (initialHalves s.data).1, r := (initialHalves s.data).2, phase := .ciRound 0 }

/-- Internal step at `phase = CI_ROUND(i+1)` (R200). -/
def ciRoundStep (i : Fin 16) (s : State) : State :=
  let lr := feistelRound (roundKey s.ks s.mode i) (s.l, s.r)
  { s with l := lr.1, r := lr.2, phase := if h : i.val + 1 < 16 then .ciRound ⟨i.val + 1, h⟩ else .ciFinal }

/-- Internal step at `phase = CI_FINAL` (R201). -/
def ciFinalStep (s : State) : State := { s with data := finalBlock (s.l, s.r), done := true, phase := .idle }

end Sys2Proof.Machine
end

