-- ==== Sys2Proof/Machine/Commands.lean ====
section
/-! DEFINITION. The two commands that are not cipher operations, NOP and CLRERR, and the write of the CMD register
(44_host_interface.md R224 to R226). -/

namespace Sys2Proof.Machine

/-- NOP: the write of 0x00 to CMD changes nothing (R225). -/
def execNop (s : State) : Host.Outcome State Fault Refusal := .next (guardedWrite id s)

/-- CLRERR: the write of 0x04 to CMD (R226). -/
def execClrerr (s : State) : Host.Outcome State Fault Refusal := .next (guardedWrite clearError s)

/-- What a command does when its write is taken with `BUSY = 0` (R224). -/
def performCommand (op : CmdOp) (s : State) : State :=
  match op with
  | .nop => s
  | .keysched => acceptKeysched s
  | .encrypt => acceptCipher .enc s
  | .decrypt => acceptCipher .dec s
  | .clrerr => clearError s

/-- Write of CMD, taken with `BUSY = 0` (R224): a reserved byte records ILLEGAL_CMD and changes nothing else
(30_encoding.md R74). The byte is not stored (10_state.md R32). -/
def writeCmd (c : Byte) (s : State) : State :=
  match decodeCmdByte c with
  | .ok op => performCommand op s
  | .error _ => raiseError .illegalCmd s

end Sys2Proof.Machine
end

