-- ==== Sys2Proof/Machine/Bus.lean ====
section
/-! DEFINITION. The host transactions WR and RD (44_host_interface.md R220, R221). -/

namespace Sys2Proof.Machine

/-- A register write, taken with `BUSY = 0` (R220): writes to read-only and unmapped addresses are ignored
(20_memory.md R57). -/
def writeReg (sel : RegSel) (b : Byte) (s : State) : State :=
  match sel with
  | .key j => writeKeyByte j b s
  | .data j => writeDataByte j b s
  | .cmd => writeCmd b s
  | .status => s
  | .errcode => s
  | .window _ _ => s
  | .unmapped => s

/-- `WR addr, data` (R220). -/
def execWr (addr : Addr) (data : Byte) (s : State) : Host.Outcome State Fault Refusal :=
  .next (guardedWrite (writeReg (selectReg addr) data) s)

/-- `RD addr` (R221): allowed at any time; no register changes. -/
def execRd (addr : Addr) (s : State) : Host.Outcome State Fault Refusal :=
  .next (deliver (readReg (selectReg addr) s) s)

end Sys2Proof.Machine
end

