-- ==== Sys2Proof/Machine/Sequencer.lean ====
section
/-! DEFINITION. The engine's turn (70_reset_and_hazards.md R293), reset as an event (R291), and where a transaction is
placed for the next step. -/

namespace Sys2Proof.Machine

/-- One turn of the engine: the internal step that `phase` selects; none is enabled in IDLE (R293). -/
def engineTurn (s : State) : State :=
  match s.phase with
  | .idle => s
  | .ksSplit => ksSplitStep s
  | .ksRound i => ksRoundStep i s
  | .ciInit => ciInitStep s
  | .ciRound i => ciRoundStep i s
  | .ciFinal => ciFinalStep s

/-- Reset asserted in any state: it aborts the operation in progress and gives R290's state (R291; log 10). -/
def takeReset (s : State) : State := s.resetFrom

/-- The events still to come with the transaction of an encoded instruction put first (log 6). -/
def placeWord (w : EncodedWord) (inputs : List Input) : List Input := .bus w.transaction :: inputs

end Sys2Proof.Machine
end

