-- ==== Sys2Proof/Machine/Step.lean ====
section
/-! DEFINITION. One step of a run (70_reset_and_hazards.md R293): one host transaction, one turn of the engine, or a
reset, as the run's next event says (log 1). When no event is left the engine goes on until IDLE, and in IDLE the block
waits (log 2). -/

namespace Sys2Proof.Machine

/-- One step. -/
def step (s : State) : Host.Outcome State Fault Refusal :=
  match s.inputs with
  | [] => .next (engineTurn s)
  | .bus T :: rest => exec (decodeBus T) { s with inputs := rest }
  | .engine :: rest => .next (engineTurn { s with inputs := rest })
  | .reset :: rest => .next (takeReset { s with inputs := rest })

/-- The state with one instruction placed as the run's next event: a BUS word as itself, a command byte as its write to
CMD. The events already there stay behind it (log 6). -/
def State.withFetchWord (s : State) (nbits w : Nat) : State :=
  { s with inputs := placeWord (tableWord nbits w) s.inputs }

end Sys2Proof.Machine
end

