-- ==== Sys2Proof/Machine/Run.lean ====
section
/-! DEFINITION. Runs: several steps in a row, and turns of the engine alone (70_reset_and_hazards.md R293). -/

namespace Sys2Proof.Machine

/-- `n` steps, ending early at a fault or a refusal. -/
def run : Nat → State → Host.Outcome State Fault Refusal
  | 0, s => .next s
  | n + 1, s =>
    match step s with
    | .next t => run n t
    | .fault f => .fault f
    | .refused r => .refused r

/-- `n` turns of the engine with no host transaction among them. -/
def engineTurns : Nat → State → State
  | 0, s => s
  | n + 1, s => engineTurns n (engineTurn s)

end Sys2Proof.Machine
end

