-- ==== Sys2Proof/Machine/Driver.lean ====
section
/-! DEFINITION. The host's side of the contract (44_host_interface.md §5 R240 to R245; 30_encoding.md R77): its data, its
programs and its duties. These are functions of software outside the block: `step` calls none of them (log 12).
Machine/DriverRun.lean runs the programs against the block. -/

namespace Sys2Proof.Machine

/-- What the host reports by itself, never the block (60_exceptions.md R267). The last three are the model's names
(log 12, log 15). -/
inductive DriverError where
  /-- "source key text exceeds the 8-byte block capacity" (R267). -/
  | keyTooLong
  /-- A host block longer than its capacity: the invariant "length never exceeds capacity" is broken (R243). When it is
  reported is the model's choice (log 16). -/
  | blockTooLong
  /-- The check of R244 failed: STATUS showed ERR (or BUSY) after the result was read, so it is not to be trusted. -/
  | resultNotUsable
  /-- The run ended before the driver did, for example inside a `POLL` (log 15). -/
  | runEnded
  /-- The block stopped. No transaction of the block does (60_exceptions.md R268). -/
  | stopped
  deriving DecidableEq, Repr

/-- Eight bytes, byte 0 in bits 1..8, missing bytes zero: "left-justified, zero-padded to 8 bytes" (R240, R241). -/
def packBytes (bytes : List Byte) : Block64 :=
  BitVec.cast (by rfl) (bytes.getD 0 0 ++ bytes.getD 1 0 ++ bytes.getD 2 0 ++ bytes.getD 3 0 ++
    bytes.getD 4 0 ++ bytes.getD 5 0 ++ bytes.getD 6 0 ++ bytes.getD 7 0)

/-- The eight bytes of a block in address order (20_memory.md R52). -/
def unpackBytes (v : Block64) : List Byte := (List.range 8).map (byteOf v)

/-- Key preparation (R240): a text of more than 8 bytes is reported and nothing is written. -/
def prepareKey (text : List Byte) : Except DriverError Block64 :=
  if keyTextFits text then .ok (packBytes text) else .error .keyTooLong

/-- Padding of one block of an encryption stream (R241): a length of 0 signals the end of input. -/
def padBlock (bytes : List Byte) : Except DriverError (Option Block64) :=
  if hostBlockFits bytes then .ok (if bytes.isEmpty then none else some (packBytes bytes))
  else .error .blockTooLong

/-- The blocks of an encryption stream, up to the length 0 that "signals end of input" (R241); a too long block among
them is the report for the whole stream (DESIGN CHOICE, log 16). -/
def padBlocks : List (List Byte) → Except DriverError (List Block64)
  | [] => .ok []
  | bytes :: rest =>
    match padBlock bytes with
    | .error e => .error e
    | .ok none => .ok []
    | .ok (some x) => (padBlocks rest).map (x :: ·)

/-- Stripping of trailing zero bytes from the final block of a decryption stream (R242). -/
def stripPadding (v : Block64) : List Byte :=
  ((unpackBytes v).reverse.dropWhile fun b => b == 0).reverse

/-- The bytes a decryption stream writes: the final block alone is stripped (R242). -/
def streamBytes : List Block64 → List Byte
  | [] => []
  | [v] => stripPadding v
  | v :: rest => unpackBytes v ++ streamBytes rest

/-- `WRKEY k`, in address order (30_encoding.md R77). -/
def wrKey (k : Block64) : List Instr := (List.finRange 8).map fun j => .wr (keyAddr j) (byteOf k j.val)

/-- `WRDATA d`, in address order (R77). -/
def wrData (d : Block64) : List Instr := (List.finRange 8).map fun j => .wr (dataAddr j) (byteOf d j.val)

/-- What key preparation has the host write (R240): `WRKEY` of the prepared key, and nothing when the text is too
long. -/
def keyWrites (text : List Byte) : List Instr :=
  match prepareKey text with
  | .ok k => wrKey k
  | .error _ => []

/-- `RDDATA` (R77). -/
def rdData : List Instr := (List.finRange 8).map fun j => .rd (dataAddr j)

/-- `RDSK r`, with `i = r − 1`: the six subkey bytes of slot `i` (R77). -/
def rdSk (i : Fin 16) : List Instr :=
  (List.finRange 6).map fun j => .rd (windowAddr i ⟨j.val, Nat.lt_of_lt_of_le j.isLt (by decide)⟩)

/-- The 48-bit value of the six bytes of `RDSK` (R77). -/
def packSubkey (bytes : List Byte) : Subkey :=
  BitVec.cast (by rfl) (bytes.getD 0 0 ++ bytes.getD 1 0 ++ bytes.getD 2 0 ++ bytes.getD 3 0 ++
    bytes.getD 4 0 ++ bytes.getD 5 0)

/-- `CMD op` expands to `WR CMD, op` (R77). -/
def cmdWrite (op : CmdOp) : Instr := .wr cmdAddr op.byte

/-- One turn of the `POLL` loop reads STATUS (R77). -/
def pollRead : Instr := .rd statusAddr

/-- `POLL` ends after the first read that returns `BUSY = 0` (R77). -/
def pollEnds (status : Byte) : Bool := !status.getLsbD 0

/-- The transactions of a list of instructions, as events of a run. -/
def transactions (program : List Instr) : List Input := program.map fun i => .bus (encode i).transaction

/-! ### Host programs (R244) -/

/-- One line of a host program: a transaction, or the loop `POLL` (R77). -/
inductive HostOp where
  | issue (i : Instr)
  | poll
  deriving DecidableEq, Repr

/-- The transaction that a line issues; `POLL` issues it once for each turn of its loop (R77). -/
def HostOp.instr : HostOp → Instr
  | .issue i => i
  | .poll => pollRead

/-- Whether a line is over once its transaction has returned `rdata`: `POLL` repeats "while the byte read has bit 0
set" (R77). -/
def HostOp.over (rdata : Byte) : HostOp → Bool
  | .issue _ => true
  | .poll => pollEnds rdata

/-- The command that a stream of each kind gives for every block (R244). -/
def Mode.command : Mode → CmdOp
  | .enc => .encrypt
  | .dec => .decrypt

/-- Loading a key (R292, R244): `WRKEY`; `CMD KEYSCHED`; `POLL`. -/
def bootSequence (k : Block64) : List HostOp := (wrKey k ++ [cmdWrite .keysched]).map .issue ++ [.poll]

/-- One block (R244): `WRDATA`; `CMD ENCRYPT` or `CMD DECRYPT`; `POLL`; `RDDATA`; and the read of STATUS whose check
decides whether the result may be trusted (log 15). -/
def blockSequence (d : Block64) (mode : Mode) : List HostOp :=
  (wrData d ++ [cmdWrite mode.command]).map .issue ++ .poll :: (rdData ++ [Instr.rd statusAddr]).map .issue

/-! ### What the host must do (R245) -/

/-- A result may be used "after `BUSY = 0`", and the host must "check ERR": `STATUS[0] = 0` and `STATUS[3] = 0` (R245,
R244). -/
def resultUsable (status : Byte) : Bool := pollEnds status && !status.getLsbD 3

/-- The host's duty for one transaction, at the state in which it is issued: "wait for `BUSY = 0`" before "it writes
anything" (R245; 70_reset_and_hazards.md R296), and of CMD only legal commands (R245); a read asks nothing. -/
def dutyKept (s : State) (i : Instr) : Bool :=
  match i with
  | .rd _ => true
  | .wr _ _ => !s.busy && i.meetsHostDuty
  | .nop => !s.busy
  | .keysched => !s.busy
  | .encrypt => !s.busy
  | .decrypt => !s.busy
  | .clrerr => !s.busy

end Sys2Proof.Machine
end

