-- ==== Sys2Proof/Machine/DriverRun.lean ====
section
/-! DEFINITION. The host's programs run against the block (44_host_interface.md R244; 30_encoding.md R77). The order of
host transactions and engine turns is a parameter (70_reset_and_hazards.md R293): the SCHEDULE, one number for each
transaction, which says how many turns the engine has before it (log 15). -/

namespace Sys2Proof.Machine

/-- The block after `turns` turns of the engine and then the host's instruction `i`. -/
def issueAfter (turns : Nat) (i : Instr) (s : State) : Host.Outcome State Fault Refusal :=
  run (turns + 1) { s with inputs := List.replicate turns .engine ++ transactions [i] ++ s.inputs }

/-- The byte the host has read last. -/
def lastRead (s : State) : Byte := s.reads.getLastD 0

/-- How a host program ends under a schedule. -/
inductive Driven where
  /-- It has ended, with this much of the schedule left. -/
  | finished (s : State) (left : List Nat)
  /-- The schedule has ended first. -/
  | waiting (s : State)
  | fault (f : Fault)
  | refused (r : Refusal)
  deriving DecidableEq, Repr

/-- Run a host program. Each number of the schedule gives one transaction; `POLL` reads STATUS again and again until a
read returns `BUSY = 0` (R77). -/
def drive : List Nat → List HostOp → State → Driven
  | schedule, [], s => .finished s schedule
  | [], _ :: _, s => .waiting s
  | turns :: schedule, op :: ops, s =>
    match issueAfter turns op.instr s with
    | .next t => drive schedule (if op.over (lastRead t) then ops else op :: ops) t
    | .fault f => .fault f
    | .refused r => .refused r

/-- The block that `RDDATA` gave, when a read of STATUS has followed it (R77: the eight bytes in address order). -/
def resultBlock (s : State) : Block64 := packBytes (s.reads.drop (s.reads.length - 9))

/-- The blocks of a stream, one after another (R244). A result is trusted only if STATUS shows no error after it has
been read; else the host stops (60_exceptions.md R262). -/
def driveBlocks (mode : Mode) : List Block64 → List Nat → State → Except DriverError (List Block64 × State × List Nat)
  | [], schedule, s => .ok ([], s, schedule)
  | d :: blocks, schedule, s =>
    match drive schedule (blockSequence d mode) s with
    | .finished t left =>
      if resultUsable (lastRead t) then
        (driveBlocks mode blocks left t).map fun result => (resultBlock t :: result.1, result.2)
      else .error .resultNotUsable
    | .waiting _ => .error .runEnded
    | .fault _ => .error .stopped
    | .refused _ => .error .stopped

/-- The driver sequence of one stream (R244): prepare the key, load it, and then every block. A key text that is too
long is reported before anything is written (R240). -/
def driveStream (text : List Byte) (mode : Mode) (blocks : List Block64) (schedule : List Nat) (s : State) :
    Except DriverError (List Block64 × State × List Nat) :=
  match prepareKey text with
  | .error e => .error e
  | .ok k =>
    match drive schedule (bootSequence k) s with
    | .finished t left => driveBlocks mode blocks left t
    | .waiting _ => .error .runEnded
    | .fault _ => .error .stopped
    | .refused _ => .error .stopped

/-- An encryption stream: the host's blocks are padded, and the 8 ciphertext bytes of every block are written out
(R241). The order of the reports is the model's (log 16). DEDUCED: a key text that is too long is reported whatever the
blocks are, since R240 asks nothing else for that report. DESIGN CHOICE: a block that breaks R243's invariant is reported
before anything is written, even when valid blocks stand before it; the spec says nothing of such a block. -/
def encryptStream (text : List Byte) (blocks : List (List Byte)) (schedule : List Nat) (s : State) :
    Except DriverError (List Byte) :=
  match prepareKey text, padBlocks blocks with
  | .error e, _ => .error e
  | .ok _, .error e => .error e
  | .ok _, .ok padded => (driveStream text .enc padded schedule s).map fun result => result.1.flatMap unpackBytes

/-- A decryption stream: the bytes of every block are written out, those of the final block stripped (R242). -/
def decryptStream (text : List Byte) (blocks : List Block64) (schedule : List Nat) (s : State) :
    Except DriverError (List Byte) :=
  (driveStream text .dec blocks schedule s).map fun result => streamBytes result.1

end Sys2Proof.Machine
end

