-- ==== Sys2Proof/Safety.lean ====
section
/-! DEFINITION. The terms claims are made in: who has the next step, the invariants (10_state.md §5), and what the
host can observe. -/

namespace Sys2Proof.Machine

/-- The next step is the host's transaction `T`. -/
def State.hostNext (s : State) (T : BusWord) : Prop := ∃ rest, s.inputs = .bus T :: rest

/-- The next step is the engine's: the run says so, or the host has nothing left to issue. -/
def State.engineNext (s : State) : Prop := s.inputs = [] ∨ ∃ rest, s.inputs = .engine :: rest

/-- The next step is a reset. -/
def State.resetNext (s : State) : Prop := ∃ rest, s.inputs = .reset :: rest

/-- The next step is a host write of `data` to `addr` that is taken (`BUSY = 0`). -/
def State.writeTakenNext (s : State) (addr : Addr) (data : Byte) : Prop :=
  s.busy = false ∧ ∃ T, s.hostNext T ∧ decodeBus T = .wr addr data

/-- R34 and what makes it inductive. In IDLE, `KSV = 1` says KS is the key schedule of KEY (R34). During KEYSCHED, KSV
is 0, C and D are the halves of the rounds done, and the entries of those rounds are KEY's (R136, R139). During a
cipher operation `KSV = 1` and KS is the key schedule of KEY (R35). -/
def SubkeysCurrent (s : State) : Prop :=
  match s.phase with
  | .idle => s.ksv = true → s.ks = keySchedule s.key
  | .ksSplit => s.ksv = false
  | .ksRound i =>
    s.ksv = false ∧ (s.c, s.d) = keyHalves s.key i.val ∧ ∀ j : Fin 16, j < i → s.ks[j] = subkeyOf s.key j
  | .ciInit | .ciRound _ | .ciFinal => s.ksv = true ∧ s.ks = keySchedule s.key

/-- During a cipher operation L and R are the halves of the rounds done on the block still in DATA (R196, R202). -/
def CipherOnTrack (s : State) : Prop :=
  match s.phase with
  | .ciRound i => (s.l, s.r) = feistelRounds s.ks s.mode (initialHalves s.data) i.val
  | .ciFinal => (s.l, s.r) = feistelRounds s.ks s.mode (initialHalves s.data) 16
  | .idle | .ksSplit | .ksRound _ | .ciInit => True

/-- ERR = 1 exactly when ERRCODE is not NONE (R26), and DONE is 0 while BUSY = 1 (R25). -/
def StatusConsistent (s : State) : Prop :=
  (s.err = false ↔ s.errcode = .none) ∧ (s.busy = true → s.done = false)

/-- Two states agree on everything a host can learn by itself and on all that follows from it: every element with a
specified reset value, and the model's own fields. KS, MODE, C, D, L and R may differ. -/
def SpecifiedAgree (s t : State) : Prop :=
  s.key = t.key ∧ s.data = t.data ∧ s.ksv = t.ksv ∧ s.done = t.done ∧ s.err = t.err ∧ s.errcode = t.errcode ∧
  s.phase = t.phase ∧ s.inputs = t.inputs ∧ s.reads = t.reads ∧ s.draws = t.draws

end Sys2Proof.Machine
end

