-- ==== Sys2Proof/Certificates/Slice0/Obligations.lean ====
section
/-! DEFINITION. The statements for the provers. Each docstring names the rule of spec/ it formalises; rounds r in 1..16
are held as i = r − 1 (log 8). Free values (Config.draw8, the reset values of Config) are opaque: a statement that names
one holds whatever it is. -/

open Sys2Proof Sys2Proof.Machine

/-! ## Encoding -/

/-- 30_encoding.md R70: the fields of a transaction word (WDATA ignored in a read, written as 0x00), the totality of its
decoder, its example, and that a read returns one byte. -/
def Obligations.BusWordDecodesToWriteOrRead : Prop :=
  (∀ (addr : Addr) (data : Byte),
    decodeBus (concat (concat 1#1 addr : BitVec 9) data) = .wr addr data ∧
    decodeBus (concat (concat 0#1 addr : BitVec 9) data) = .rd addr ∧
    encode (.wr addr data) = .bus (concat (concat 1#1 addr : BitVec 9) data) ∧
    encode (.rd addr) = .bus (concat (concat 0#1 addr : BitVec 9) 0x00#8)) ∧
  decodeBus 0x11001 = .wr 0x10 0x01 ∧
  (∀ T : BusWord, (∃ addr data, decodeBus T = .wr addr data) ∨ ∃ addr, decodeBus T = .rd addr) ∧
  (∀ (addr : Addr) (s : State), ∃ b t, exec (.rd addr) s = .next t ∧ t.reads = s.reads ++ [b])

/-- 30_encoding.md §§1 to 4: no operand bit of any instruction is lost between its encoding and its decoding, in its own
format and on the bus; and each word has one meaning, since encoding what was decoded gives the word back (only the
ignored WDATA of a read is rewritten, as 0x00). -/
def Obligations.DecodeAndEncodeAgree : Prop :=
  (∀ i : Instr, decode (encode i) = .ok i) ∧
  (∀ addr data, decodeBus (encode (.wr addr data)).transaction = .wr addr data) ∧
  (∀ addr, decodeBus (encode (.rd addr)).transaction = .rd addr) ∧
  (∀ op : CmdOp, decodeBus (encode op.toInstr).transaction = .wr 0x10 op.byte) ∧
  (∀ T : BusWord, encode (decodeBus T) = .bus (if T.getLsbD 16 then T else T &&& 0x0FF00)) ∧
  (∀ (c : Byte) (i : Instr), decode (.cmd c) = .ok i → encode i = .cmd c)

/-- 30_encoding.md R78: a CMD row matches a byte `c` when `c & mask = match`, a BUS row matches a word `T` when
`T & mask = match`, and a byte that matches no CMD row has the ILLEGAL_CMD verdict of R74. -/
def Obligations.OpcodeTableRowsDecideDecoding : Prop :=
  (∀ c : Byte,
    (c &&& 0xFF = 0x00 → decode (.cmd c) = .ok .nop) ∧
    (c &&& 0xFF = 0x01 → decode (.cmd c) = .ok .keysched) ∧
    (c &&& 0xFF = 0x02 → decode (.cmd c) = .ok .encrypt) ∧
    (c &&& 0xFF = 0x03 → decode (.cmd c) = .ok .decrypt) ∧
    (c &&& 0xFF = 0x04 → decode (.cmd c) = .ok .clrerr) ∧
    (c &&& 0xFF ≠ 0x00 → c &&& 0xFF ≠ 0x01 → c &&& 0xFF ≠ 0x02 → c &&& 0xFF ≠ 0x03 → c &&& 0xFF ≠ 0x04 →
      (∃ e, decode (.cmd c) = .error e) ∧
      ∀ s : State, s.busy = false → exec (.wr 0x10 c) s = .next (raiseError .illegalCmd s))) ∧
  (∀ T : BusWord,
    (T &&& 0x10000 = 0x10000 → ∃ addr data, decode (.bus T) = .ok (.wr addr data)) ∧
    (T &&& 0x10000 = 0x00000 → ∃ addr, decode (.bus T) = .ok (.rd addr)))

/-- 30_encoding.md R72, R76: a few words written out bit by bit from the spec's encoding. -/
def Obligations.WrittenOutWordsDecode : Prop :=
  decodeTableWord 24 0b1_00010000_00000001 = some (.wr 0x10 0x01) ∧
  decodeTableWord 24 0b1_00000101_10111100 = some (.wr 0x05 0xBC) ∧
  decodeTableWord 24 0b0_00010001_00000000 = some (.rd 0x11) ∧
  decodeTableWord 8 0b0000_0000 = some .nop ∧
  decodeTableWord 8 0b0000_0001 = some .keysched ∧
  decodeTableWord 8 0b0000_0010 = some .encrypt ∧
  decodeTableWord 8 0b0000_0011 = some .decrypt ∧
  decodeTableWord 8 0b0000_0100 = some .clrerr ∧
  decodeTableWord 8 0b0000_0101 = none ∧
  decodeTableWord 8 0b0001_0010 = none

/-! ## Steps of a run -/

/-- 70_reset_and_hazards.md §2: a step that is a host transaction is `exec` of the instruction its word decodes to, on
the state with that event taken off the run. -/
def Obligations.StepRunsDecodedTransaction : Prop :=
  ∀ (s : State) (T : BusWord) (rest : List Input) (i : Instr), s.inputs = .bus T :: rest →
    decode (.bus T) = .ok i → step s = exec i { s with inputs := rest }

/-- 30_encoding.md §4 (a command is the write of its byte to CMD): the instruction of an opcode-table row, placed by
withFetchWord, is what the very next step runs. How a word is placed is the model's choice (log 6). -/
def Obligations.PlacedTableWordRunsNext : Prop :=
  (∀ (s : State) (c : Byte) (i : Instr), decodeTableWord 8 c.toNat = some i →
    step (s.withFetchWord 8 c.toNat) = exec i s) ∧
  (∀ (s : State) (T : BusWord) (i : Instr), decodeTableWord 24 T.toNat = some i →
    step (s.withFetchWord 24 T.toNat) = exec i s)

/-- 60_exceptions.md §4 ("no step of the block can reach this fault", marked derived there): no instruction and no step
ever stops, in any state. -/
def Obligations.EveryInstructionAndStepCompletes : Prop :=
  (∀ (i : Instr) (s : State), ∃ t, exec i s = .next t) ∧ (∀ s : State, ∃ t, step s = .next t)

/-- 70_reset_and_hazards.md §2: an internal step is taken exactly when `phase ≠ IDLE`; each one changes `phase`, and
none changes KEY, ERR or ERRCODE. That the engine has the step when the run lists no further event, and that an idle
block then waits, is the model's choice (log 1, log 2). -/
def Obligations.EngineTurnTakesAStepExactlyWhenBusy : Prop :=
  ∀ (s u : State), (s.inputs = [] ∧ u = s ∨ ∃ rest, s.inputs = .engine :: rest ∧ u = { s with inputs := rest }) →
    (s.busy = false → step s = .next u) ∧
    (s.busy = true → ∃ t, step s = .next t ∧ t.phase ≠ s.phase ∧ t.key = s.key ∧ t.err = s.err ∧
      t.errcode = s.errcode ∧ t.inputs = u.inputs ∧ t.reads = s.reads ∧ t.draws = s.draws)

/-! ## Host writes -/

/-- 44_host_interface.md R220: the WR transaction, the frame of a dropped write, and the rule's example. -/
def Obligations.WriteRefusedWhileBusyElseDispatched : Prop :=
  ∀ (addr : Addr) (data : Byte) (s : State),
    encode (.wr addr data) =
      .bus (0x10000 ||| (addr.setWidth 17 <<< 8) ||| data.setWidth 17) ∧
    (s.busy = true →
      exec (.wr addr data) s = .next (raiseError .busyWrite s) ∧
      raiseError .busyWrite s = { s with err := true, errcode := if s.err then s.errcode else .busyWrite }) ∧
    (s.busy = false →
      (∀ j : Fin 8, addr.toNat = 0x00 + j.val → exec (.wr addr data) s = .next (writeKeyByte j data s)) ∧
      (∀ j : Fin 8, addr.toNat = 0x08 + j.val → exec (.wr addr data) s = .next (writeDataByte j data s)) ∧
      (addr.toNat = 0x10 → exec (.wr addr data) s = .next (writeCmd data s)) ∧
      (0x11 ≤ addr.toNat → exec (.wr addr data) s = .next s)) ∧
    ∃ t, exec (.wr 0x00 0x13) State.reset = .next t ∧ slice t.key 1 8 = 0x13#8 ∧ t.ksv = false

/-- 44_host_interface.md R222: a KEY byte write, its frame, and what becomes of the old subkeys. -/
def Obligations.KeyByteWriteClearsSubkeysValid : Prop :=
  ∀ (j : Fin 8) (data : Byte) (s : State), s.busy = false →
    ∃ t, exec (.wr (BitVec.ofNat 8 (0x00 + j.val)) data) s = .next t ∧
      byteOf t.key j.val = data ∧ (∀ k : Fin 8, k ≠ j → byteOf t.key k.val = byteOf s.key k.val) ∧
      t.ksv = false ∧ t = { s with key := t.key, ksv := false } ∧
      (∀ (i : Fin 16) (k : Fin 8), k.val < 6 →
        exec (.rd (windowAddr i k)) t =
          .next { t with reads := t.reads ++ [Config.draw8 t.draws], draws := t.draws + 1 }) ∧
      exec .encrypt t = .next (raiseError .noSubkeys t) ∧ exec .decrypt t = .next (raiseError .noSubkeys t)

/-- 44_host_interface.md R223: a DATA byte write and its frame. -/
def Obligations.DataByteWriteChangesOneByte : Prop :=
  ∀ (j : Fin 8) (data : Byte) (s : State), s.busy = false →
    ∃ t, exec (.wr (BitVec.ofNat 8 (0x08 + j.val)) data) s = .next t ∧
      byteOf t.data j.val = data ∧ (∀ k : Fin 8, k ≠ j → byteOf t.data k.val = byteOf s.data k.val) ∧
      t = { s with data := t.data }

/-- 44_host_interface.md R224: the CMD write. The byte is not stored: CMD still reads 0x00. -/
def Obligations.CmdWriteRunsTheNamedCommand : Prop :=
  ∀ (c : Byte) (s : State), s.busy = false →
    (c.extractLsb' 4 4 ≠ 0#4 ∨ 5 ≤ (c.extractLsb' 0 4).toNat →
      exec (.wr 0x10 c) s = .next (raiseError .illegalCmd s)) ∧
    (c.extractLsb' 4 4 = 0#4 → c.extractLsb' 0 4 = 0x0#4 → exec (.wr 0x10 c) s = exec .nop s) ∧
    (c.extractLsb' 4 4 = 0#4 → c.extractLsb' 0 4 = 0x1#4 → exec (.wr 0x10 c) s = exec .keysched s) ∧
    (c.extractLsb' 4 4 = 0#4 → c.extractLsb' 0 4 = 0x2#4 → exec (.wr 0x10 c) s = exec .encrypt s) ∧
    (c.extractLsb' 4 4 = 0#4 → c.extractLsb' 0 4 = 0x3#4 → exec (.wr 0x10 c) s = exec .decrypt s) ∧
    (c.extractLsb' 4 4 = 0#4 → c.extractLsb' 0 4 = 0x4#4 → exec (.wr 0x10 c) s = exec .clrerr s) ∧
    (∀ t, exec (.wr 0x10 c) s = .next t → exec (.rd 0x10) t = .next { t with reads := t.reads ++ [0x00] })

/-- 20_memory.md R57: unmapped addresses and read-only registers ignore writes while idle; unmapped addresses and CMD
read 0x00. -/
def Obligations.UnmappedAndReadOnlyAddressesAreInert : Prop :=
  ∀ (addr : Addr) (data : Byte) (s : State),
    (s.busy = false →
      (0x13 ≤ addr.toNat ∧ addr.toNat ≤ 0x3F ∨ 0xC0 ≤ addr.toNat ∨ addr = 0x11 ∨ addr = 0x12 ∨
        0x40 ≤ addr.toNat ∧ addr.toNat ≤ 0xBF) →
      exec (.wr addr data) s = .next s) ∧
    (0x13 ≤ addr.toNat ∧ addr.toNat ≤ 0x3F ∨ 0xC0 ≤ addr.toNat ∨ addr = 0x10 →
      exec (.rd addr) s = .next { s with reads := s.reads ++ [0x00] })

/-- 30_encoding.md R77 (WRKEY, WRDATA): from an idle state the eight byte writes of WRKEY load the whole key and clear
KSV, and those of WRDATA load the whole block; nothing else changes. -/
def Obligations.EightByteWritesLoadARegister : Prop :=
  ∀ (s : State) (v : Block64) (rest : List Input), s.busy = false →
    (s.inputs = transactions (wrKey v) ++ rest →
      run 8 s = .next { s with key := v, ksv := false, inputs := rest }) ∧
    (s.inputs = transactions (wrData v) ++ rest → run 8 s = .next { s with data := v, inputs := rest })

/-! ## Commands -/

/-- 44_host_interface.md R225: NOP. -/
def Obligations.NopChangesNothing : Prop :=
  ∀ s : State,
    (s.busy = false → exec .nop s = .next s) ∧
    (s.busy = true → exec .nop s = .next (raiseError .busyWrite s)) ∧
    (encode .nop).transaction = encodeWr 0x10 0x00 ∧ exec (.wr 0x10 0x00) s = exec .nop s

/-- 44_host_interface.md R226: CLRERR, with the rule's example. -/
def Obligations.ClrerrClearsTheError : Prop :=
  ∀ s : State,
    (s.busy = false → exec .clrerr s = .next { s with err := false, errcode := .none }) ∧
    (s.busy = true → s.err = false → exec .clrerr s = .next { s with err := true, errcode := .busyWrite }) ∧
    (s.busy = true → s.err = true → exec .clrerr s = .next s) ∧
    (encode .clrerr).transaction = encodeWr 0x10 0x04 ∧ exec (.wr 0x10 0x04) s = exec .clrerr s ∧
    (∀ t, statusByte s = 0x08 → errcodeByte s = 0x02 → exec .clrerr s = .next t →
      statusByte t = 0x00 ∧ errcodeByte t = 0x00)

/-- 41_key_scheduler.md §2 (the acceptance of KEYSCHED): every key is accepted; only KSV, DONE and `phase` change. -/
def Obligations.KeyschedAcceptance : Prop :=
  ∀ s : State,
    (s.busy = false → exec .keysched s = .next { s with ksv := false, done := false, phase := .ksSplit }) ∧
    (s.busy = true → exec .keysched s = .next (raiseError .busyWrite s)) ∧
    exec (.wr 0x10 0x01) s = exec .keysched s

/-- 43_block_cipher.md §3 (the acceptance of ENCRYPT and of DECRYPT): only MODE, DONE and `phase` change; without valid
subkeys the command is refused with NO_SUBKEYS. -/
def Obligations.CipherCommandAcceptance : Prop :=
  ∀ s : State,
    (s.busy = false → s.ksv = true →
      exec .encrypt s = .next { s with mode := .enc, done := false, phase := .ciInit } ∧
      exec .decrypt s = .next { s with mode := .dec, done := false, phase := .ciInit }) ∧
    (s.busy = false → s.ksv = false →
      exec .encrypt s = .next (raiseError .noSubkeys s) ∧ exec .decrypt s = .next (raiseError .noSubkeys s)) ∧
    (s.busy = true →
      exec .encrypt s = .next (raiseError .busyWrite s) ∧ exec .decrypt s = .next (raiseError .busyWrite s)) ∧
    exec (.wr 0x10 0x02) s = exec .encrypt s ∧ exec (.wr 0x10 0x03) s = exec .decrypt s

/-! ## Reads -/

/-- 44_host_interface.md §1 (RD): allowed in every state, one byte returned, no register changed; only the model's own
`reads` and `draws` move (log 4, log 5). -/
def Obligations.ReadsChangeNoRegister : Prop :=
  ∀ (addr : Addr) (s : State), ∃ b n, exec (.rd addr) s = .next { s with reads := s.reads ++ [b], draws := n } ∧
    (n = s.draws ∨ n = s.draws + 1 ∧ b = Config.draw8 s.draws)

/-- 44_host_interface.md R228 and R229: KEY reads back at any time; DATA reads back while idle, and as a free value
while busy. -/
def Obligations.KeyAndDataReads : Prop :=
  ∀ (j : Fin 8) (s : State),
    exec (.rd (BitVec.ofNat 8 (0x00 + j.val))) s =
      .next { s with reads := s.reads ++ [slice s.key (8 * j.val + 1) 8] } ∧
    (s.busy = false → exec (.rd (BitVec.ofNat 8 (0x08 + j.val))) s =
      .next { s with reads := s.reads ++ [slice s.data (8 * j.val + 1) 8] }) ∧
    (s.busy = true → exec (.rd (BitVec.ofNat 8 (0x08 + j.val))) s =
      .next { s with reads := s.reads ++ [Config.draw8 s.draws], draws := s.draws + 1 })

/-- 44_host_interface.md R230 and R231: the bits of STATUS, with the rule's example, and the ERRCODE register, code by
code. -/
def Obligations.StatusAndErrcodeReads : Prop :=
  ∀ s : State,
    (∃ b, exec (.rd 0x11) s = .next { s with reads := s.reads ++ [b] } ∧
      b.getLsbD 0 = s.busy ∧ b.getLsbD 1 = s.ksv ∧ b.getLsbD 2 = s.done ∧ b.getLsbD 3 = s.err ∧
      b.extractLsb' 4 4 = 0#4 ∧
      (s.busy = false → s.ksv = true → s.done = true → s.err = false → b = 0x06)) ∧
    ∃ b, exec (.rd 0x12) s = .next { s with reads := s.reads ++ [b] } ∧
      (s.errcode = .none → b = 0x00) ∧ (s.errcode = .illegalCmd → b = 0x01) ∧
      (s.errcode = .noSubkeys → b = 0x02) ∧ (s.errcode = .busyWrite → b = 0x03)

/-- 44_host_interface.md R232: the subkey window, slot by slot and byte by byte. -/
def Obligations.SubkeyWindowRead : Prop :=
  ∀ (i : Fin 16) (j : Fin 8) (s : State),
    exec (.rd (BitVec.ofNat 8 (0x40 + 8 * i.val + j.val))) s = .next
      (if 6 ≤ j.val then { s with reads := s.reads ++ [0x00] }
      else if s.busy = false ∧ s.ksv = true then { s with reads := s.reads ++ [slice s.ks[i] (8 * j.val + 1) 8] }
      else { s with reads := s.reads ++ [Config.draw8 s.draws], draws := s.draws + 1 })

/-! ## Errors -/

/-- 60_exceptions.md R261: recording an error. -/
def Obligations.RaiseErrorKeepsTheFirst : Prop :=
  ∀ (code : ErrCode) (s : State),
    (s.err = false → raiseError code s = { s with err := true, errcode := code }) ∧
    (s.err = true → raiseError code s = s)

/-- 60_exceptions.md R263: at most one error per transaction, in the order BUSY_WRITE, ILLEGAL_CMD, NO_SUBKEYS; every
other transaction records none; and internal steps record none. -/
def Obligations.ErrorPriorityWithinATransaction : Prop :=
  ∀ (addr : Addr) (data : Byte) (s : State),
    (s.busy = true → exec (.wr addr data) s = .next (raiseError .busyWrite s)) ∧
    (s.busy = false → addr = 0x10 → commandByteLegal data = false →
      exec (.wr addr data) s = .next (raiseError .illegalCmd s)) ∧
    (s.busy = false → addr = 0x10 → (data = 0x02 ∨ data = 0x03) → s.ksv = false →
      exec (.wr addr data) s = .next (raiseError .noSubkeys s)) ∧
    (s.busy = false → ¬(addr = 0x10 ∧ (commandByteLegal data = false ∨
        (data = 0x02 ∨ data = 0x03) ∧ s.ksv = false)) → s.err = false →
      ∃ t, exec (.wr addr data) s = .next t ∧ t.err = false) ∧
    (∃ t, exec (.rd addr) s = .next t ∧ t.err = s.err ∧ t.errcode = s.errcode) ∧
    (engineTurn s).err = s.err ∧ (engineTurn s).errcode = s.errcode

/-- 60_exceptions.md R262: a transaction that raises an error changes ERR and ERRCODE only, and an operation in progress
runs to its normal end as if the refused write had not been made. -/
def Obligations.RefusedTransactionHasNoOtherEffect : Prop :=
  ∀ (addr : Addr) (data : Byte) (s t : State), exec (.wr addr data) s = .next t →
    (s.busy = true ∨ (s.busy = false ∧ addr = 0x10 ∧ commandByteLegal data = false) ∨
      (s.busy = false ∧ addr = 0x10 ∧ (data = 0x02 ∨ data = 0x03) ∧ s.ksv = false)) →
    t = { s with err := t.err, errcode := t.errcode } ∧ t.err = true ∧
    ∀ n, engineTurns n t = { engineTurns n s with err := t.err, errcode := t.errcode }

/-- 60_exceptions.md R266: only CLRERR or reset leaves the error state, later errors are not recorded, and ERR blocks
no command. -/
def Obligations.ErrorStateIsStickyAndHarmless : Prop :=
  (∀ s t : State, step s = .next t → s.err = true →
    (t.err = true → t.errcode = s.errcode) ∧
    (t.err = false → s.resetNext ∨ s.writeTakenNext 0x10 0x04)) ∧
  (∀ (i : Instr) (s t t' : State), (∀ addr, i ≠ .rd addr) → exec i s = .next t →
    exec i { s with err := false, errcode := .none } = .next t' →
    t' = { t with err := t'.err, errcode := t'.errcode })

/-! ## Internal steps -/

/-- 41_key_scheduler.md R138, R139 and R140: the KS_SPLIT step, the KS_ROUND(i+1) step, and the completion of
KEYSCHED. -/
def Obligations.KeyScheduleSteps : Prop :=
  ∀ (s : State) (rest : List Input), s.inputs = .engine :: rest →
    (s.phase = .ksSplit →
      step s = .next { s with c := applyTable pc1c s.key, d := applyTable pc1d s.key, phase := .ksRound 0,
                              inputs := rest }) ∧
    ∀ i : Fin 16, s.phase = .ksRound i →
      ∃ t, step s = .next t ∧
        t.c = rotl s.c shiftSchedule[i] ∧ t.d = rotl s.d shiftSchedule[i] ∧
        t.ks[i] = applyTable pc2 (concat t.c t.d) ∧ (∀ k : Fin 16, k ≠ i → t.ks[k] = s.ks[k]) ∧
        (∀ h : i.val + 1 < 16, t.phase = .ksRound ⟨i.val + 1, h⟩ ∧ t.ksv = s.ksv ∧ t.done = s.done) ∧
        (i.val = 15 → t.ksv = true ∧ t.done = true ∧ t.phase = .idle ∧ t.busy = false) ∧
        t = { s with c := t.c, d := t.d, ks := t.ks, phase := t.phase, ksv := t.ksv, done := t.done,
                     inputs := rest }

/-- 43_block_cipher.md R199 and R201: the CI_INIT step and the CI_FINAL step. -/
def Obligations.CipherInitialAndFinalSteps : Prop :=
  ∀ (s : State) (rest : List Input), s.inputs = .engine :: rest →
    (s.phase = .ciInit →
      step s = .next { s with l := slice (applyTable ipTable s.data) 1 32,
                              r := slice (applyTable ipTable s.data) 33 32,
                              phase := .ciRound 0, inputs := rest }) ∧
    (s.phase = .ciFinal →
      ∃ t, step s = .next t ∧
        t = { s with data := applyTable fpTable (concat s.r s.l), done := true, phase := .idle, inputs := rest } ∧
        t.busy = false)

/-- 43_block_cipher.md R200: the CI_ROUND(i+1) step; round r takes KS[r] or KS[17 − r], so index i or 15 − i. -/
def Obligations.CiRoundStepTakesOneFeistelRound : Prop :=
  ∀ (s : State) (rest : List Input) (i j : Fin 16), s.inputs = .engine :: rest → s.phase = .ciRound i →
    (s.mode = .enc → j = i) → (s.mode = .dec → j.val = 15 - i.val) →
    ∃ p : Phase, step s = .next { s with l := s.r, r := s.l ^^^ roundF s.r s.ks[j], phase := p, inputs := rest } ∧
      (∀ h : i.val + 1 < 16, p = .ciRound ⟨i.val + 1, h⟩) ∧ (i.val = 15 → p = .ciFinal)

/-! ## Reset -/

/-- 70_reset_and_hazards.md R290: the specified reset values, what STATUS and ERRCODE then read, and that the block
waits in IDLE: the engine has no step of its own. Nothing is said of the unspecified elements. -/
def Obligations.ResetLeavesTheSpecifiedValues : Prop :=
  State.reset.key = 0x0000000000000000 ∧ State.reset.data = 0x0000000000000000 ∧ State.reset.ksv = false ∧
  State.reset.done = false ∧ State.reset.err = false ∧ State.reset.errcode = .none ∧ State.reset.phase = .idle ∧
  State.reset.busy = false ∧
  exec (.rd 0x11) State.reset = .next { State.reset with reads := [0x00] } ∧
  exec (.rd 0x12) State.reset = .next { State.reset with reads := [0x00] } ∧
  engineTurn State.reset = State.reset

/-- 70_reset_and_hazards.md §1 (reset in any state, an operation in progress included). That the rest of the run and the
bytes the host has read survive it is the model's choice (log 10). -/
def Obligations.ResetAbortsAnyOperation : Prop :=
  ∀ (s : State) (rest : List Input), s.inputs = .reset :: rest →
    ∃ t, step s = .next t ∧ t.key = 0 ∧ t.data = 0 ∧ t.ksv = false ∧ t.done = false ∧ t.err = false ∧
      t.errcode = .none ∧ t.phase = .idle ∧ t.busy = false ∧ t.inputs = rest ∧ t.reads = s.reads

/-! ## Who writes what -/

/-- 10_state.md §2 (KEY: "The host writes it one byte at a time", "No step of the block writes it"; DATA: host writes
and the CI_FINAL step): every step that changes KEY or DATA is one of those, or a reset. -/
def Obligations.KeyAndDataWrittenOnlyAsRuled : Prop :=
  ∀ s t : State, step s = .next t →
    (t.key ≠ s.key → s.resetNext ∨
      ∃ (j : Fin 8) (b : Byte), s.writeTakenNext (keyAddr j) b ∧ t.key = setByte s.key j b) ∧
    (t.data ≠ s.data → s.resetNext ∨ (s.engineNext ∧ s.phase = .ciFinal) ∨
      ∃ (j : Fin 8) (b : Byte), s.writeTakenNext (dataAddr j) b ∧ t.data = setByte s.data j b)

/-- 10_state.md §2 (KS: "Only the KS_ROUND(r) step writes KS[r]"): a subkey entry changes in its own round only, or at a
reset. -/
def Obligations.SubkeyEntryWrittenOnlyInItsRound : Prop :=
  ∀ (s t : State) (i : Fin 16), step s = .next t → t.ks[i] ≠ s.ks[i] →
    s.resetNext ∨ (s.engineNext ∧ s.phase = .ksRound i)

/-- 10_state.md §2 (KSV): it is cleared by the acceptance of KEYSCHED, by a KEY byte write and by reset only, and set by
the last KS_ROUND step only. -/
def Obligations.SubkeysValidChangesOnlyAsRuled : Prop :=
  ∀ s t : State, step s = .next t →
    (s.ksv = false → t.ksv = true → s.engineNext ∧ s.phase = .ksRound 15) ∧
    (s.ksv = true → t.ksv = false → s.resetNext ∨ s.writeTakenNext 0x10 0x01 ∨
      ∃ (j : Fin 8) (b : Byte), s.writeTakenNext (keyAddr j) b)

/-- 10_state.md R25: DONE is cleared when a KEYSCHED, ENCRYPT or DECRYPT is accepted (or at reset), set when that
command's last step completes, and left alone by everything else; it reads as STATUS[2]; its reset value is 0. -/
def Obligations.DoneChangesOnlyAsRuled : Prop :=
  (∀ s t : State, step s = .next t →
    (s.done = false → t.done = true → s.engineNext ∧ (s.phase = .ksRound 15 ∨ s.phase = .ciFinal)) ∧
    (s.done = true → t.done = false → s.resetNext ∨ s.writeTakenNext 0x10 0x01 ∨
      s.ksv = true ∧ (s.writeTakenNext 0x10 0x02 ∨ s.writeTakenNext 0x10 0x03)) ∧
    (s.engineNext → s.phase = .ksRound 15 ∨ s.phase = .ciFinal → t.done = true) ∧
    (s.writeTakenNext 0x10 0x01 → t.done = false) ∧
    (s.ksv = true → s.writeTakenNext 0x10 0x02 ∨ s.writeTakenNext 0x10 0x03 → t.done = false)) ∧
  (∀ s : State, (statusByte s).getLsbD 2 = s.done) ∧ State.reset.done = false

/-! ## Invariants -/

/-- The invariants of 10_state.md §5 and the status invariant hold at reset. -/
def Obligations.ResetMeetsTheInvariants : Prop :=
  SubkeysCurrent State.reset ∧ CipherOnTrack State.reset ∧ StatusConsistent State.reset

/-- 10_state.md §5 (R34 and R35, marked derived there), made inductive: the subkey file is the key schedule of the
current KEY whenever it is usable. Every step keeps it, whatever the host does. -/
def Obligations.SubkeyFileInvariantPreserved : Prop :=
  ∀ s t : State, SubkeysCurrent s → step s = .next t → SubkeysCurrent t

/-- 43_block_cipher.md §3 (R202, marked derived there), made inductive: during an operation L and R are the halves of
the rounds done on the block still in DATA. Every step keeps it, whatever the host does. -/
def Obligations.CipherRunInvariantPreserved : Prop :=
  ∀ s t : State, CipherOnTrack s → step s = .next t → CipherOnTrack t

/-- 10_state.md §2 (R25, R26): ERR and ERRCODE agree and DONE is 0 while BUSY. Every step keeps it. -/
def Obligations.StatusInvariantPreserved : Prop :=
  ∀ s t : State, StatusConsistent s → step s = .next t → StatusConsistent t

/-- 70_reset_and_hazards.md §3 ("The block never encrypts with subkeys of a key other than the one in KEY", marked
derived there): from a state that meets the two invariants, the last step of an operation writes Encrypt or Decrypt of
the block in DATA under the key in KEY. -/
def Obligations.FinalStepUsesTheCurrentKey : Prop :=
  ∀ s t : State, SubkeysCurrent s → CipherOnTrack s → s.engineNext → s.phase = .ciFinal → step s = .next t →
    (s.mode = .enc → t.data = encryptBlock s.data s.key) ∧ (s.mode = .dec → t.data = decryptBlock s.data s.key) ∧
    t.done = true ∧ t.busy = false ∧ t.key = s.key ∧ t.ks = s.ks ∧ t.ksv = s.ksv

/-! ## Whole operations, under every interleaving -/

/-- 41_key_scheduler.md §2 (R141, marked derived there): whatever host transactions stand among the seventeen internal
steps, an accepted KEYSCHED ends with the key schedule of the key it was accepted with. -/
def Obligations.KeyschedEndsWithTheKeySchedule : Prop :=
  ∀ (s : State) (between rest : List Input), s.busy = false → Input.reset ∉ between →
    between.count .engine = 16 → s.inputs = between ++ .engine :: rest →
    ∃ a t, exec .keysched s = .next a ∧ run (between.length + 1) a = .next t ∧
      t.ks = keySchedule s.key ∧ t.ksv = true ∧ t.done = true ∧ t.phase = .idle ∧
      t.key = s.key ∧ t.data = s.data ∧ t.l = s.l ∧ t.r = s.r ∧ t.mode = s.mode ∧ t.inputs = rest

/-- 43_block_cipher.md §3 (R202, marked derived there): whatever host transactions stand among the eighteen internal
steps, an accepted ENCRYPT or DECRYPT ends with Crypt of the block and the subkeys it was accepted with. -/
def Obligations.CipherCommandEndsWithCrypt : Prop :=
  ∀ (s : State) (m : Mode) (i : Instr) (between rest : List Input), s.busy = false → s.ksv = true →
    (i = .encrypt ∧ m = .enc ∨ i = .decrypt ∧ m = .dec) → Input.reset ∉ between →
    between.count .engine = 17 → s.inputs = between ++ .engine :: rest →
    ∃ a t, exec i s = .next a ∧ run (between.length + 1) a = .next t ∧
      t.data = crypt s.data s.ks m ∧ t.done = true ∧ t.phase = .idle ∧
      t.key = s.key ∧ t.ks = s.ks ∧ t.ksv = true ∧ t.inputs = rest

/-- 70_reset_and_hazards.md §2 and §4 ("each operation ends after finitely many internal steps"): a host that issues
nothing more leaves the block to finish within eighteen steps. That the engine then has every step is the model's
choice (log 2). -/
def Obligations.OperationEndsWithinEighteenSteps : Prop :=
  ∀ s : State, s.inputs = [] → ∃ n t, n ≤ 18 ∧ run n s = .next t ∧ t.phase = .idle ∧ step t = .next t

/-- 70_reset_and_hazards.md §1 ("unspecified; unobservable", marked derived there): from an idle state with KSV = 0,
such as reset, no run of any length lets the host tell different contents of KS, MODE, C, D, L and R apart. -/
def Obligations.UnspecifiedElementsAreUnobservable : Prop :=
  ∀ (s : State) (ks : SubkeyFile) (m : Mode) (c d : KeyHalf) (l r : Half) (n : Nat),
    s.phase = .idle → s.ksv = false →
    ∃ t t', run n s = .next t ∧ run n { s with ks := ks, mode := m, c := c, d := d, l := l, r := r } = .next t' ∧
      SpecifiedAgree t t' ∧ statusByte t = statusByte t' ∧ errcodeByte t = errcodeByte t'

/-! ## Datapath functions -/

/-- 40_bit_engines.md R103 (and R102 for an entry out of range): the permutation engine on any table. -/
def Obligations.PermuteReadsTheNamedBits : Prop :=
  ∀ (n m : Nat) (v : BitVec n) (T : Vector Nat m),
    ((∀ i : Fin m, 1 ≤ T[i] ∧ T[i] ≤ n) →
      ∃ u, permute v T = .ok u ∧ ∀ i : Fin m, getBit v T[i] = getBit u (i.val + 1)) ∧
    ((∃ i : Fin m, T[i] < 1 ∨ n < T[i]) → permute v T = .error .preconditionViolation)

/-- 40_bit_engines.md R109: the bit accessor round trip. -/
def Obligations.BitAccessorRoundTrip : Prop :=
  ∀ (n : Nat) (v : BitVec n) (i : Nat) (x : Bool), 1 ≤ i → i ≤ n →
    ∃ v', putBit v i x = .ok v' ∧ getBit v' i = .ok x ∧ ∀ j, j ≠ i → getBit v' j = getBit v j

/-- 40_bit_engines.md R100 and R101: the bit accessor on any value (`v<i>` is `v[n−i]`), its form for values held as
bytes, and the fault outside 1..n. -/
def Obligations.BitAccessorOnAnyValueAndOnBytes : Prop :=
  (∀ (n : Nat) (v : BitVec n) (i : Nat) (x : Bool),
    (1 ≤ i → i ≤ n →
      getBit v i = .ok (v.getLsbD (n - i)) ∧
      ∃ v', putBit v i x = .ok v' ∧ v'.getLsbD (n - i) = x ∧
        ∀ j, 1 ≤ j → j ≤ n → j ≠ i → v'.getLsbD (n - j) = v.getLsbD (n - j)) ∧
    (i < 1 ∨ n < i →
      getBit v i = .error .preconditionViolation ∧ putBit v i x = .error .preconditionViolation)) ∧
  ∀ (m : Nat) (v : BitVec (8 * m)) (i : Nat) (x : Bool), 1 ≤ i → i ≤ 8 * m →
    getBit v i = .ok ((byteOf v ((i - 1) / 8) >>> (7 - (i - 1) % 8) &&& 1#8) == 1#8) ∧
    ∃ v', putBit v i x = .ok v' ∧
      byteOf v' ((i - 1) / 8) =
        (if x then byteOf v ((i - 1) / 8) ||| 1#8 <<< (7 - (i - 1) % 8)
        else byteOf v ((i - 1) / 8) &&& ~~~(1#8 <<< (7 - (i - 1) % 8))) ∧
      ∀ k, k < m → k ≠ (i - 1) / 8 → byteOf v' k = byteOf v k

/-- 40_bit_engines.md §3 (the closed form and the composition law, marked derived there): rotation stays inside the
value's own bits and counts add up. -/
def Obligations.RotationClosedFormAndComposition : Prop :=
  ∀ (n : Nat) (v : BitVec n),
    (∀ k i, 1 ≤ i → i ≤ n → bitAt (rotl v k) i = bitAt v ((i - 1 + k) % n + 1)) ∧
    (∀ a b, rotl (rotl v a) b = rotl v (a + b)) ∧ rotl v 0 = v ∧ rotl v n = v

/-- 40_bit_engines.md §5 (table validity), 41 §1, 42 §3 and §4, 43 §1 (which bits each table names, and that every row
of every S-box is a permutation of 0..15): all marked derived there. -/
def Obligations.FixedTablesAreValid : Prop :=
  tableValid 64 ipTable.entries = true ∧ tableValid 64 fpTable.entries = true ∧
  tableValid 64 pc1c.entries = true ∧ tableValid 64 pc1d.entries = true ∧ tableValid 56 pc2.entries = true ∧
  tableValid 32 eTable.entries = true ∧ tableValid 32 pTable.entries = true ∧
  ipTable.entries.toList.Nodup ∧ fpTable.entries.toList.Nodup ∧ pTable.entries.toList.Nodup ∧
  pc2.entries.toList.Nodup ∧ (pc1c.entries.toList ++ pc1d.entries.toList).Nodup ∧
  (∀ e ∈ pc1c.entries.toList ++ pc1d.entries.toList, e % 8 ≠ 0) ∧
  ∀ (b : Fin 8) (row : Fin 4), sboxRowValid (((sbox b).toList.drop (16 * row.val)).take 16) = true

/-- 42_round_function.md R164 and R173 (and the segments of R163): row and column of a segment, the lookup, and the
place of the nibble of S-box b at bits 4b+1..4b+4. -/
def Obligations.SboxLookupAndAssembly : Prop :=
  (∀ (b : Fin 8) (seg : BitVec 6) (row col : Nat),
    row = 2 * (bitAt seg 1).toNat + (bitAt seg 6).toNat →
    col = 8 * (bitAt seg 2).toNat + 4 * (bitAt seg 3).toNat + 2 * (bitAt seg 4).toNat + (bitAt seg 5).toNat →
    row ≤ 3 ∧ col ≤ 15 ∧ (sbox b)[16 * row + col]? = some (substitute seg b)) ∧
  ∀ (x : Subkey) (b : Fin 8),
    slice (sboxLayer x) (4 * b.val + 1) 4 = substitute (slice x (6 * b.val + 1) 6) b

/-- 42_round_function.md §1, §4 and §5: what E, P and F compute. Bit i of E(x) is bit E[i] of x and bit i of P(y) is
bit P[i] of y, with the entries of the two tables written out (general knowledge in the spec; PRESUMED, log 9); F
expands, mixes, looks each segment up and permutes with P; §5's corner case and worked example. Three clauses are marked
derived there: P names each of 1..32 exactly once (§4), F depends on its arguments only through E(Rin) xor K, and so F
of the complements is F (§5). -/
def Obligations.RoundFunctionOfComplements : Prop :=
  (∀ (x : Half) (i e : Nat),
    ([32, 1, 2, 3, 4, 5, 4, 5, 6, 7, 8, 9] ++ [8, 9, 10, 11, 12, 13, 12, 13, 14, 15, 16, 17] ++
      [16, 17, 18, 19, 20, 21, 20, 21, 22, 23, 24, 25] ++ [24, 25, 26, 27, 28, 29, 28, 29, 30, 31, 32, 1])[i]? = some e →
    bitAt (expand x) (i + 1) = bitAt x e) ∧
  (∀ (y : Half) (i p : Nat),
    ([16, 7, 20, 21, 29, 12, 28, 17, 1, 15, 23, 26, 5, 18, 31, 10] ++
      [2, 8, 24, 14, 32, 27, 3, 9, 19, 13, 30, 6, 22, 11, 4, 25])[i]? = some p →
    bitAt (applyTable pTable y) (i + 1) = bitAt y p ∧
    ∀ (x : Half) (k : Subkey), bitAt (roundF x k) (i + 1) = bitAt (sboxLayer (expand x ^^^ k)) p) ∧
  (∀ (x : Half) (k : Subkey), ∃ y : Half, roundF x k = applyTable pTable y ∧
    ∀ (b : Fin 8) (seg : BitVec 6), seg = slice (expand x ^^^ k) (6 * b.val + 1) 6 →
      (sbox b)[16 * (2 * (bitAt seg 1).toNat + (bitAt seg 6).toNat) + (slice seg 2 4).toNat]? =
        some (slice y (4 * b.val + 1) 4)) ∧
  roundF 0x00000000 0x000000000000 = 0xD8D8DBBC ∧ roundF 0xF0AAF0AA 0x1B02EFFC7072 = 0x234AA9BB ∧
  (∀ (x : Half) (k : Subkey), roundF (~~~x) (~~~k) = roundF x k) ∧
  (∀ (x x' : Half) (k k' : Subkey), expand x ^^^ k = expand x' ^^^ k' → roundF x k = roundF x' k') ∧
  (∀ j, 1 ≤ j → j ≤ 32 → pTable.entries.toList.count j = 1)

/-- 41_key_scheduler.md R135: the loop that makes the sixteen subkeys, with the shifts of the schedule written out. -/
def Obligations.KeyScheduleFollowsTheLoop : Prop :=
  ∃ cd : Block64 → Nat → KeyHalf × KeyHalf, ∀ key : Block64,
    cd key 0 = (applyTable pc1c key, applyTable pc1d key) ∧
    ∀ i : Fin 16, ∀ k, [1, 1, 2, 2, 2, 2, 2, 2, 1, 2, 2, 2, 2, 2, 2, 1][i.val]? = some k →
      cd key (i.val + 1) = (rotl (cd key i.val).1 k, rotl (cd key i.val).2 k) ∧
      (keySchedule key)[i] =
        applyTable pc2 (concat (cd key (i.val + 1)).1 (cd key (i.val + 1)).2)

/-- 41_key_scheduler.md §2 (the cumulative rotation, marked derived there): the halves of round r are the round-0 halves
rotated by the sum of the first r shifts, and after round 16 they are back. -/
def Obligations.KeyHalvesRotateCumulatively : Prop :=
  ∀ key : Block64,
    (∀ r, r ≤ 16 → keyHalves key r =
      (rotl (applyTable pc1c key) (shiftSchedule.toList.take r).sum,
        rotl (applyTable pc1d key) (shiftSchedule.toList.take r).sum)) ∧
    keyHalves key 16 = keyHalves key 0

/-- 41_key_scheduler.md §1 (the parity bits, marked derived there): keys that differ only in bits 8, 16, …, 64 have the
same subkeys. -/
def Obligations.ParityBitsDoNotReachTheSubkeys : Prop :=
  ∀ k k' : Block64, (∀ i, 1 ≤ i → i ≤ 64 → i % 8 ≠ 0 → bitAt k i = bitAt k' i) →
    keySchedule k = keySchedule k' ∧ ∀ x, encryptBlock x k = encryptBlock x k' ∧ decryptBlock x k = decryptBlock x k'

/-- 43_block_cipher.md §1 (FP is the inverse of IP, marked derived there). -/
def Obligations.FinalPermutationInvertsInitial : Prop :=
  ∀ x : Block64, applyTable fpTable (applyTable ipTable x) = x ∧ applyTable ipTable (applyTable fpTable x) = x

/-- 43_block_cipher.md §4 (the round trip, R203, marked derived there): decryption undoes encryption and encryption
undoes decryption, for every block and every subkey sequence, and so for every key. -/
def Obligations.DecryptUndoesEncrypt : Prop :=
  (∀ (x : Block64) (ks : SubkeyFile), crypt (crypt x ks .enc) ks .dec = x ∧ crypt (crypt x ks .dec) ks .enc = x) ∧
  (∀ x key : Block64, decryptBlock (encryptBlock x key) key = x)

/-- 95_test_vectors.md V18 (the complementation property, general knowledge there): complementing block and key
complements the result. -/
def Obligations.ComplementationProperty : Prop :=
  ∀ x key : Block64, encryptBlock (~~~x) (~~~key) = ~~~(encryptBlock x key)

/-! ## The host's side -/

/-- 44_host_interface.md R240: key preparation. -/
def Obligations.KeyPreparationPadsOrReports : Prop :=
  ∀ text : List Byte,
    (8 < text.length → prepareKey text = .error .keyTooLong ∧ keyWrites text = []) ∧
    (text.length ≤ 8 → ∃ k, prepareKey text = .ok k ∧ ∀ j : Fin 8, byteOf k j.val = text.getD j.val 0x00) ∧
    prepareKey [] = .ok 0x0000000000000000 ∧ prepareKey [0x61, 0x62, 0x63] = .ok 0x6162630000000000 ∧
    ∀ (s : State) (k : Block64) (rest : List Input), prepareKey text = .ok k → s.busy = false →
      s.inputs = transactions (keyWrites text) ++ rest → ∃ t, run 8 s = .next t ∧ t.key = k

/-- 44_host_interface.md §5 (padding and stripping): a final block of 1 to 8 bytes whose last byte is not zero survives
padding, encryption, decryption and stripping. -/
def Obligations.PaddedBlockSurvivesTheRoundTrip : Prop :=
  ∀ (bytes : List Byte) (b : Byte) (key : Block64), bytes.length + 1 ≤ 8 → b ≠ 0x00 →
    ∃ x, padBlock (bytes ++ [b]) = .ok (some x) ∧
      stripPadding (decryptBlock (encryptBlock x key) key) = bytes ++ [b]

/-- 44_host_interface.md §5 (the driver sequence of a stream) and 30_encoding.md §4 (`POLL`). `POLL` ends at the first
read of STATUS that returns BUSY = 0, and the block is then idle. From every state, a stream whose results the driver
trusts has given Crypt of every block under the prepared key's schedule. From an idle state without an error, a key text
that fits, and a run in which the engine has a turn before each transaction, the driver comes to its end. How the turns
of the engine are counted out is the model's choice (log 15). -/
def Obligations.TrustedDriverResultIsTheCipher : Prop :=
  (∀ (schedule left : List Nat) (s t : State), drive schedule [.poll] s = .finished t left →
    t.phase = .idle ∧ ∃ (busyReads : List Byte) (last : Byte), t.reads = s.reads ++ busyReads ++ [last] ∧
      (∀ b ∈ busyReads, b.getLsbD 0 = true) ∧ last.getLsbD 0 = false ∧
      schedule.length = busyReads.length + 1 + left.length) ∧
  (∀ (text : List Byte) (mode : Mode) (blocks out : List Block64) (schedule left : List Nat) (s t : State),
    driveStream text mode blocks schedule s = .ok (out, t, left) →
    ∃ k, prepareKey text = .ok k ∧ out = blocks.map fun x => crypt x (keySchedule k) mode) ∧
  ∀ (text : List Byte) (mode : Mode) (blocks : List Block64) (schedule : List Nat) (s : State),
    text.length ≤ 8 → s.busy = false → s.err = false → (∀ turns ∈ schedule, 1 ≤ turns) →
    26 + 36 * blocks.length ≤ schedule.length →
    ∃ out t left, driveStream text mode blocks schedule s = .ok (out, t, left)
end

