-- ==== Sys2Proof/Laws/BitEngines.lean ====
section
/-! SUPPORT. The bit engines bit by bit: each operation read through `bitAt`, the spec's 1-based `v<i>`. -/

namespace Sys2Proof.Machine

theorem bitAt_succ {n : Nat} (v : BitVec n) (i : Nat) : bitAt v (i + 1) = v.getMsbD i := rfl

/-- Two values with the same bits `v<1>..v<n>` are equal. -/
theorem eq_of_bitAt_eq {n : Nat} {u v : BitVec n} (h : ∀ i < n, bitAt u (i + 1) = bitAt v (i + 1)) : u = v := by
  apply BitVec.eq_of_getMsbD_eq
  intro i hi
  exact h i hi

theorem bitAt_xor {n : Nat} (u v : BitVec n) (i : Nat) : bitAt (u ^^^ v) i = (bitAt u i ^^ bitAt v i) := by
  simp [bitAt]

theorem bitAt_not {n : Nat} (v : BitVec n) (i : Nat) (h : 1 ≤ i ∧ i ≤ n) : bitAt (~~~v) i = !bitAt v i := by
  simp only [bitAt, BitVec.getMsbD_not]
  simp
  omega

/-- Bit `i+1` of a gathered value is the bit its table names (R103). -/
theorem bitAt_gather {n m : Nat} (v : BitVec n) (T : Vector Nat m) (i : Nat) (h : i < m) :
    bitAt (gather v T) (i + 1) = bitAt v T[i] := by
  simp [bitAt_succ, gather, BitVec.getMsbD_ofBoolListBE, h]

theorem bitAt_applyTable {n m : Nat} (T : PermTable n m) (v : BitVec n) (i : Nat) (h : i < m) :
    bitAt (applyTable T v) (i + 1) = bitAt v T.entries[i] := bitAt_gather v T.entries i h

/-- An entry of a valid table lies in 1..n (R110). -/
theorem entry_in_range {n m : Nat} {T : Vector Nat m} (hT : tableValid n T = true) (i : Nat) (h : i < m) :
    1 ≤ T[i] ∧ T[i] ≤ n := by
  have := (List.all_eq_true.mp hT) T[i] (by simp)
  simpa using this

theorem bitAt_slice {n : Nat} (v : BitVec n) (a w i : Nat) (ha : 1 ≤ a) (hw : a + w ≤ n + 1) (hi : i < w) :
    bitAt (slice v a w) (i + 1) = bitAt v (a + i) := by
  simp only [bitAt, slice, BitVec.getMsbD_eq_getLsbD, BitVec.getLsbD_extractLsb']
  simp only [Nat.add_sub_cancel]
  have h1 : i < w := hi
  have h2 : w - 1 - i < w := by omega
  have h3 : a + i - 1 < n := by omega
  simp only [h1, h2, h3, decide_true, Bool.true_and]
  congr 1
  omega

/-- Concatenation puts the first-named value in the lower-numbered bits (R107). -/
theorem bitAt_concat_left {m n k : Nat} (a : BitVec m) (b : BitVec n) (h : m + n = k) (i : Nat) (hi : i < m) :
    bitAt (concat a b h) (i + 1) = bitAt a (i + 1) := by
  simp [bitAt_succ, concat, BitVec.getMsbD_append, hi]

theorem bitAt_concat_right {m n k : Nat} (a : BitVec m) (b : BitVec n) (h : m + n = k) (i : Nat) :
    bitAt (concat a b h) (m + i + 1) = bitAt b (i + 1) := by
  simp [bitAt_succ, concat, BitVec.getMsbD_append]

theorem rotl_zero {n : Nat} (v : BitVec n) : rotl v 0 = v := rfl

theorem rotl_succ {n : Nat} (v : BitVec n) (k : Nat) : rotl v (k + 1) = rotl (rot1 v) k := rfl

/-- One rotation moves bit `i+1` to bit `i`, and bit 1 to bit n (R105). -/
theorem bitAt_rot1 {n : Nat} (v : BitVec n) (i : Nat) (h : i < n) :
    bitAt (rot1 v) (i + 1) = bitAt v (if i + 1 < n then i + 2 else 1) := by
  rw [bitAt_succ, rot1, BitVec.getMsbD_rotateLeft]
  have hm : (i + 1) % n = if i + 1 < n then i + 1 else 0 := by
    split
    · exact Nat.mod_eq_of_lt ‹_›
    · rw [show i + 1 = n by omega, Nat.mod_self]
  simp only [h, decide_true, Bool.true_and, Nat.add_comm 1 i]
  rw [hm]
  split <;> rfl

end Sys2Proof.Machine
end

