-- ==== Sys2Proof/Laws/State.lean ====
section
/-! SUPPORT. For each shared operation that updates State, one lemma per field: what it writes and that it leaves the
rest alone. Tagged simp, so that no later proof unfolds an update. -/

namespace Sys2Proof.Machine

variable (s : State)

@[simp] theorem raiseError_key (e : ErrCode) : (raiseError e s).key = s.key := by
  unfold raiseError; split <;> simp_all
@[simp] theorem raiseError_data (e : ErrCode) : (raiseError e s).data = s.data := by
  unfold raiseError; split <;> simp_all
@[simp] theorem raiseError_ks (e : ErrCode) : (raiseError e s).ks = s.ks := by
  unfold raiseError; split <;> simp_all
@[simp] theorem raiseError_ksv (e : ErrCode) : (raiseError e s).ksv = s.ksv := by
  unfold raiseError; split <;> simp_all
@[simp] theorem raiseError_done (e : ErrCode) : (raiseError e s).done = s.done := by
  unfold raiseError; split <;> simp_all
@[simp] theorem raiseError_err (e : ErrCode) : (raiseError e s).err = true := by
  unfold raiseError; split <;> simp_all
@[simp] theorem raiseError_errcode (e : ErrCode) : (raiseError e s).errcode = if s.err then s.errcode else e := by
  unfold raiseError; split <;> simp_all
@[simp] theorem raiseError_phase (e : ErrCode) : (raiseError e s).phase = s.phase := by
  unfold raiseError; split <;> simp_all
@[simp] theorem raiseError_mode (e : ErrCode) : (raiseError e s).mode = s.mode := by
  unfold raiseError; split <;> simp_all
@[simp] theorem raiseError_c (e : ErrCode) : (raiseError e s).c = s.c := by
  unfold raiseError; split <;> simp_all
@[simp] theorem raiseError_d (e : ErrCode) : (raiseError e s).d = s.d := by
  unfold raiseError; split <;> simp_all
@[simp] theorem raiseError_l (e : ErrCode) : (raiseError e s).l = s.l := by
  unfold raiseError; split <;> simp_all
@[simp] theorem raiseError_r (e : ErrCode) : (raiseError e s).r = s.r := by
  unfold raiseError; split <;> simp_all
@[simp] theorem raiseError_inputs (e : ErrCode) : (raiseError e s).inputs = s.inputs := by
  unfold raiseError; split <;> simp_all
@[simp] theorem raiseError_reads (e : ErrCode) : (raiseError e s).reads = s.reads := by
  unfold raiseError; split <;> simp_all
@[simp] theorem raiseError_draws (e : ErrCode) : (raiseError e s).draws = s.draws := by
  unfold raiseError; split <;> simp_all

@[simp] theorem clearError_key : (clearError s).key = s.key := rfl
@[simp] theorem clearError_data : (clearError s).data = s.data := rfl
@[simp] theorem clearError_ks : (clearError s).ks = s.ks := rfl
@[simp] theorem clearError_ksv : (clearError s).ksv = s.ksv := rfl
@[simp] theorem clearError_done : (clearError s).done = s.done := rfl
@[simp] theorem clearError_err : (clearError s).err = false := rfl
@[simp] theorem clearError_errcode : (clearError s).errcode = .none := rfl
@[simp] theorem clearError_phase : (clearError s).phase = s.phase := rfl
@[simp] theorem clearError_mode : (clearError s).mode = s.mode := rfl
@[simp] theorem clearError_c : (clearError s).c = s.c := rfl
@[simp] theorem clearError_d : (clearError s).d = s.d := rfl
@[simp] theorem clearError_l : (clearError s).l = s.l := rfl
@[simp] theorem clearError_r : (clearError s).r = s.r := rfl
@[simp] theorem clearError_inputs : (clearError s).inputs = s.inputs := rfl
@[simp] theorem clearError_reads : (clearError s).reads = s.reads := rfl
@[simp] theorem clearError_draws : (clearError s).draws = s.draws := rfl

@[simp] theorem writeKeyByte_key (j : Fin 8) (b : Byte) : (writeKeyByte j b s).key = setByte s.key j b := rfl
@[simp] theorem writeKeyByte_data (j : Fin 8) (b : Byte) : (writeKeyByte j b s).data = s.data := rfl
@[simp] theorem writeKeyByte_ks (j : Fin 8) (b : Byte) : (writeKeyByte j b s).ks = s.ks := rfl
@[simp] theorem writeKeyByte_ksv (j : Fin 8) (b : Byte) : (writeKeyByte j b s).ksv = false := rfl
@[simp] theorem writeKeyByte_done (j : Fin 8) (b : Byte) : (writeKeyByte j b s).done = s.done := rfl
@[simp] theorem writeKeyByte_err (j : Fin 8) (b : Byte) : (writeKeyByte j b s).err = s.err := rfl
@[simp] theorem writeKeyByte_errcode (j : Fin 8) (b : Byte) : (writeKeyByte j b s).errcode = s.errcode := rfl
@[simp] theorem writeKeyByte_phase (j : Fin 8) (b : Byte) : (writeKeyByte j b s).phase = s.phase := rfl
@[simp] theorem writeKeyByte_mode (j : Fin 8) (b : Byte) : (writeKeyByte j b s).mode = s.mode := rfl
@[simp] theorem writeKeyByte_c (j : Fin 8) (b : Byte) : (writeKeyByte j b s).c = s.c := rfl
@[simp] theorem writeKeyByte_d (j : Fin 8) (b : Byte) : (writeKeyByte j b s).d = s.d := rfl
@[simp] theorem writeKeyByte_l (j : Fin 8) (b : Byte) : (writeKeyByte j b s).l = s.l := rfl
@[simp] theorem writeKeyByte_r (j : Fin 8) (b : Byte) : (writeKeyByte j b s).r = s.r := rfl
@[simp] theorem writeKeyByte_inputs (j : Fin 8) (b : Byte) : (writeKeyByte j b s).inputs = s.inputs := rfl
@[simp] theorem writeKeyByte_reads (j : Fin 8) (b : Byte) : (writeKeyByte j b s).reads = s.reads := rfl
@[simp] theorem writeKeyByte_draws (j : Fin 8) (b : Byte) : (writeKeyByte j b s).draws = s.draws := rfl

@[simp] theorem writeDataByte_key (j : Fin 8) (b : Byte) : (writeDataByte j b s).key = s.key := rfl
@[simp] theorem writeDataByte_data (j : Fin 8) (b : Byte) : (writeDataByte j b s).data = setByte s.data j b := rfl
@[simp] theorem writeDataByte_ks (j : Fin 8) (b : Byte) : (writeDataByte j b s).ks = s.ks := rfl
@[simp] theorem writeDataByte_ksv (j : Fin 8) (b : Byte) : (writeDataByte j b s).ksv = s.ksv := rfl
@[simp] theorem writeDataByte_done (j : Fin 8) (b : Byte) : (writeDataByte j b s).done = s.done := rfl
@[simp] theorem writeDataByte_err (j : Fin 8) (b : Byte) : (writeDataByte j b s).err = s.err := rfl
@[simp] theorem writeDataByte_errcode (j : Fin 8) (b : Byte) : (writeDataByte j b s).errcode = s.errcode := rfl
@[simp] theorem writeDataByte_phase (j : Fin 8) (b : Byte) : (writeDataByte j b s).phase = s.phase := rfl
@[simp] theorem writeDataByte_mode (j : Fin 8) (b : Byte) : (writeDataByte j b s).mode = s.mode := rfl
@[simp] theorem writeDataByte_c (j : Fin 8) (b : Byte) : (writeDataByte j b s).c = s.c := rfl
@[simp] theorem writeDataByte_d (j : Fin 8) (b : Byte) : (writeDataByte j b s).d = s.d := rfl
@[simp] theorem writeDataByte_l (j : Fin 8) (b : Byte) : (writeDataByte j b s).l = s.l := rfl
@[simp] theorem writeDataByte_r (j : Fin 8) (b : Byte) : (writeDataByte j b s).r = s.r := rfl
@[simp] theorem writeDataByte_inputs (j : Fin 8) (b : Byte) : (writeDataByte j b s).inputs = s.inputs := rfl
@[simp] theorem writeDataByte_reads (j : Fin 8) (b : Byte) : (writeDataByte j b s).reads = s.reads := rfl
@[simp] theorem writeDataByte_draws (j : Fin 8) (b : Byte) : (writeDataByte j b s).draws = s.draws := rfl

@[simp] theorem deliver_key (v : ReadValue) : (deliver v s).key = s.key := by
  cases v <;> rfl
@[simp] theorem deliver_data (v : ReadValue) : (deliver v s).data = s.data := by
  cases v <;> rfl
@[simp] theorem deliver_ks (v : ReadValue) : (deliver v s).ks = s.ks := by
  cases v <;> rfl
@[simp] theorem deliver_ksv (v : ReadValue) : (deliver v s).ksv = s.ksv := by
  cases v <;> rfl
@[simp] theorem deliver_done (v : ReadValue) : (deliver v s).done = s.done := by
  cases v <;> rfl
@[simp] theorem deliver_err (v : ReadValue) : (deliver v s).err = s.err := by
  cases v <;> rfl
@[simp] theorem deliver_errcode (v : ReadValue) : (deliver v s).errcode = s.errcode := by
  cases v <;> rfl
@[simp] theorem deliver_phase (v : ReadValue) : (deliver v s).phase = s.phase := by
  cases v <;> rfl
@[simp] theorem deliver_mode (v : ReadValue) : (deliver v s).mode = s.mode := by
  cases v <;> rfl
@[simp] theorem deliver_c (v : ReadValue) : (deliver v s).c = s.c := by
  cases v <;> rfl
@[simp] theorem deliver_d (v : ReadValue) : (deliver v s).d = s.d := by
  cases v <;> rfl
@[simp] theorem deliver_l (v : ReadValue) : (deliver v s).l = s.l := by
  cases v <;> rfl
@[simp] theorem deliver_r (v : ReadValue) : (deliver v s).r = s.r := by
  cases v <;> rfl
@[simp] theorem deliver_inputs (v : ReadValue) : (deliver v s).inputs = s.inputs := by
  cases v <;> rfl

@[simp] theorem acceptKeysched_key : (acceptKeysched s).key = s.key := rfl
@[simp] theorem acceptKeysched_data : (acceptKeysched s).data = s.data := rfl
@[simp] theorem acceptKeysched_ks : (acceptKeysched s).ks = s.ks := rfl
@[simp] theorem acceptKeysched_ksv : (acceptKeysched s).ksv = false := rfl
@[simp] theorem acceptKeysched_done : (acceptKeysched s).done = false := rfl
@[simp] theorem acceptKeysched_err : (acceptKeysched s).err = s.err := rfl
@[simp] theorem acceptKeysched_errcode : (acceptKeysched s).errcode = s.errcode := rfl
@[simp] theorem acceptKeysched_phase : (acceptKeysched s).phase = .ksSplit := rfl
@[simp] theorem acceptKeysched_mode : (acceptKeysched s).mode = s.mode := rfl
@[simp] theorem acceptKeysched_c : (acceptKeysched s).c = s.c := rfl
@[simp] theorem acceptKeysched_d : (acceptKeysched s).d = s.d := rfl
@[simp] theorem acceptKeysched_l : (acceptKeysched s).l = s.l := rfl
@[simp] theorem acceptKeysched_r : (acceptKeysched s).r = s.r := rfl
@[simp] theorem acceptKeysched_inputs : (acceptKeysched s).inputs = s.inputs := rfl
@[simp] theorem acceptKeysched_reads : (acceptKeysched s).reads = s.reads := rfl
@[simp] theorem acceptKeysched_draws : (acceptKeysched s).draws = s.draws := rfl

@[simp] theorem acceptCipher_key (m : Mode) : (acceptCipher m s).key = s.key := by
  unfold acceptCipher; split <;> simp
@[simp] theorem acceptCipher_data (m : Mode) : (acceptCipher m s).data = s.data := by
  unfold acceptCipher; split <;> simp
@[simp] theorem acceptCipher_ks (m : Mode) : (acceptCipher m s).ks = s.ks := by
  unfold acceptCipher; split <;> simp
@[simp] theorem acceptCipher_ksv (m : Mode) : (acceptCipher m s).ksv = s.ksv := by
  unfold acceptCipher; split <;> simp
@[simp] theorem acceptCipher_c (m : Mode) : (acceptCipher m s).c = s.c := by
  unfold acceptCipher; split <;> simp
@[simp] theorem acceptCipher_d (m : Mode) : (acceptCipher m s).d = s.d := by
  unfold acceptCipher; split <;> simp
@[simp] theorem acceptCipher_l (m : Mode) : (acceptCipher m s).l = s.l := by
  unfold acceptCipher; split <;> simp
@[simp] theorem acceptCipher_r (m : Mode) : (acceptCipher m s).r = s.r := by
  unfold acceptCipher; split <;> simp
@[simp] theorem acceptCipher_inputs (m : Mode) : (acceptCipher m s).inputs = s.inputs := by
  unfold acceptCipher; split <;> simp
@[simp] theorem acceptCipher_reads (m : Mode) : (acceptCipher m s).reads = s.reads := by
  unfold acceptCipher; split <;> simp
@[simp] theorem acceptCipher_draws (m : Mode) : (acceptCipher m s).draws = s.draws := by
  unfold acceptCipher; split <;> simp

@[simp] theorem ksSplitStep_key : (ksSplitStep s).key = s.key := rfl
@[simp] theorem ksSplitStep_data : (ksSplitStep s).data = s.data := rfl
@[simp] theorem ksSplitStep_ks : (ksSplitStep s).ks = s.ks := rfl
@[simp] theorem ksSplitStep_ksv : (ksSplitStep s).ksv = s.ksv := rfl
@[simp] theorem ksSplitStep_done : (ksSplitStep s).done = s.done := rfl
@[simp] theorem ksSplitStep_err : (ksSplitStep s).err = s.err := rfl
@[simp] theorem ksSplitStep_errcode : (ksSplitStep s).errcode = s.errcode := rfl
@[simp] theorem ksSplitStep_phase : (ksSplitStep s).phase = .ksRound 0 := rfl
@[simp] theorem ksSplitStep_mode : (ksSplitStep s).mode = s.mode := rfl
@[simp] theorem ksSplitStep_c : (ksSplitStep s).c = applyTable pc1c s.key := rfl
@[simp] theorem ksSplitStep_d : (ksSplitStep s).d = applyTable pc1d s.key := rfl
@[simp] theorem ksSplitStep_l : (ksSplitStep s).l = s.l := rfl
@[simp] theorem ksSplitStep_r : (ksSplitStep s).r = s.r := rfl
@[simp] theorem ksSplitStep_inputs : (ksSplitStep s).inputs = s.inputs := rfl
@[simp] theorem ksSplitStep_reads : (ksSplitStep s).reads = s.reads := rfl
@[simp] theorem ksSplitStep_draws : (ksSplitStep s).draws = s.draws := rfl

@[simp] theorem ksRoundStep_key (i : Fin 16) : (ksRoundStep i s).key = s.key := by
  simp only [ksRoundStep]; split <;> rfl
@[simp] theorem ksRoundStep_data (i : Fin 16) : (ksRoundStep i s).data = s.data := by
  simp only [ksRoundStep]; split <;> rfl
@[simp] theorem ksRoundStep_ks (i : Fin 16) : (ksRoundStep i s).ks = s.ks.set i (compress (rotl s.c shiftSchedule[i]) (rotl s.d shiftSchedule[i])) := by
  simp only [ksRoundStep]; split <;> rfl
@[simp] theorem ksRoundStep_err (i : Fin 16) : (ksRoundStep i s).err = s.err := by
  simp only [ksRoundStep]; split <;> rfl
@[simp] theorem ksRoundStep_errcode (i : Fin 16) : (ksRoundStep i s).errcode = s.errcode := by
  simp only [ksRoundStep]; split <;> rfl
@[simp] theorem ksRoundStep_mode (i : Fin 16) : (ksRoundStep i s).mode = s.mode := by
  simp only [ksRoundStep]; split <;> rfl
@[simp] theorem ksRoundStep_c (i : Fin 16) : (ksRoundStep i s).c = rotl s.c shiftSchedule[i] := by
  simp only [ksRoundStep]; split <;> rfl
@[simp] theorem ksRoundStep_d (i : Fin 16) : (ksRoundStep i s).d = rotl s.d shiftSchedule[i] := by
  simp only [ksRoundStep]; split <;> rfl
@[simp] theorem ksRoundStep_l (i : Fin 16) : (ksRoundStep i s).l = s.l := by
  simp only [ksRoundStep]; split <;> rfl
@[simp] theorem ksRoundStep_r (i : Fin 16) : (ksRoundStep i s).r = s.r := by
  simp only [ksRoundStep]; split <;> rfl
@[simp] theorem ksRoundStep_inputs (i : Fin 16) : (ksRoundStep i s).inputs = s.inputs := by
  simp only [ksRoundStep]; split <;> rfl
@[simp] theorem ksRoundStep_reads (i : Fin 16) : (ksRoundStep i s).reads = s.reads := by
  simp only [ksRoundStep]; split <;> rfl
@[simp] theorem ksRoundStep_draws (i : Fin 16) : (ksRoundStep i s).draws = s.draws := by
  simp only [ksRoundStep]; split <;> rfl

@[simp] theorem ciInitStep_key : (ciInitStep s).key = s.key := rfl
@[simp] theorem ciInitStep_data : (ciInitStep s).data = s.data := rfl
@[simp] theorem ciInitStep_ks : (ciInitStep s).ks = s.ks := rfl
@[simp] theorem ciInitStep_ksv : (ciInitStep s).ksv = s.ksv := rfl
@[simp] theorem ciInitStep_done : (ciInitStep s).done = s.done := rfl
@[simp] theorem ciInitStep_err : (ciInitStep s).err = s.err := rfl
@[simp] theorem ciInitStep_errcode : (ciInitStep s).errcode = s.errcode := rfl
@[simp] theorem ciInitStep_phase : (ciInitStep s).phase = .ciRound 0 := rfl
@[simp] theorem ciInitStep_mode : (ciInitStep s).mode = s.mode := rfl
@[simp] theorem ciInitStep_c : (ciInitStep s).c = s.c := rfl
@[simp] theorem ciInitStep_d : (ciInitStep s).d = s.d := rfl
@[simp] theorem ciInitStep_l : (ciInitStep s).l = (initialHalves s.data).1 := rfl
@[simp] theorem ciInitStep_r : (ciInitStep s).r = (initialHalves s.data).2 := rfl
@[simp] theorem ciInitStep_inputs : (ciInitStep s).inputs = s.inputs := rfl
@[simp] theorem ciInitStep_reads : (ciInitStep s).reads = s.reads := rfl
@[simp] theorem ciInitStep_draws : (ciInitStep s).draws = s.draws := rfl

@[simp] theorem ciRoundStep_key (i : Fin 16) : (ciRoundStep i s).key = s.key := rfl
@[simp] theorem ciRoundStep_data (i : Fin 16) : (ciRoundStep i s).data = s.data := rfl
@[simp] theorem ciRoundStep_ks (i : Fin 16) : (ciRoundStep i s).ks = s.ks := rfl
@[simp] theorem ciRoundStep_ksv (i : Fin 16) : (ciRoundStep i s).ksv = s.ksv := rfl
@[simp] theorem ciRoundStep_done (i : Fin 16) : (ciRoundStep i s).done = s.done := rfl
@[simp] theorem ciRoundStep_err (i : Fin 16) : (ciRoundStep i s).err = s.err := rfl
@[simp] theorem ciRoundStep_errcode (i : Fin 16) : (ciRoundStep i s).errcode = s.errcode := rfl
@[simp] theorem ciRoundStep_mode (i : Fin 16) : (ciRoundStep i s).mode = s.mode := rfl
@[simp] theorem ciRoundStep_c (i : Fin 16) : (ciRoundStep i s).c = s.c := rfl
@[simp] theorem ciRoundStep_d (i : Fin 16) : (ciRoundStep i s).d = s.d := rfl
@[simp] theorem ciRoundStep_l (i : Fin 16) : (ciRoundStep i s).l = s.r := rfl
@[simp] theorem ciRoundStep_r (i : Fin 16) : (ciRoundStep i s).r = s.l ^^^ roundF s.r (roundKey s.ks s.mode i) := rfl
@[simp] theorem ciRoundStep_inputs (i : Fin 16) : (ciRoundStep i s).inputs = s.inputs := rfl
@[simp] theorem ciRoundStep_reads (i : Fin 16) : (ciRoundStep i s).reads = s.reads := rfl
@[simp] theorem ciRoundStep_draws (i : Fin 16) : (ciRoundStep i s).draws = s.draws := rfl

@[simp] theorem ciFinalStep_key : (ciFinalStep s).key = s.key := rfl
@[simp] theorem ciFinalStep_data : (ciFinalStep s).data = finalBlock (s.l, s.r) := rfl
@[simp] theorem ciFinalStep_ks : (ciFinalStep s).ks = s.ks := rfl
@[simp] theorem ciFinalStep_ksv : (ciFinalStep s).ksv = s.ksv := rfl
@[simp] theorem ciFinalStep_done : (ciFinalStep s).done = true := rfl
@[simp] theorem ciFinalStep_err : (ciFinalStep s).err = s.err := rfl
@[simp] theorem ciFinalStep_errcode : (ciFinalStep s).errcode = s.errcode := rfl
@[simp] theorem ciFinalStep_phase : (ciFinalStep s).phase = .idle := rfl
@[simp] theorem ciFinalStep_mode : (ciFinalStep s).mode = s.mode := rfl
@[simp] theorem ciFinalStep_c : (ciFinalStep s).c = s.c := rfl
@[simp] theorem ciFinalStep_d : (ciFinalStep s).d = s.d := rfl
@[simp] theorem ciFinalStep_l : (ciFinalStep s).l = s.l := rfl
@[simp] theorem ciFinalStep_r : (ciFinalStep s).r = s.r := rfl
@[simp] theorem ciFinalStep_inputs : (ciFinalStep s).inputs = s.inputs := rfl
@[simp] theorem ciFinalStep_reads : (ciFinalStep s).reads = s.reads := rfl
@[simp] theorem ciFinalStep_draws : (ciFinalStep s).draws = s.draws := rfl

@[simp] theorem takeReset_key : (takeReset s).key = 0 := rfl
@[simp] theorem takeReset_data : (takeReset s).data = 0 := rfl
@[simp] theorem takeReset_ksv : (takeReset s).ksv = false := rfl
@[simp] theorem takeReset_done : (takeReset s).done = false := rfl
@[simp] theorem takeReset_err : (takeReset s).err = false := rfl
@[simp] theorem takeReset_errcode : (takeReset s).errcode = .none := rfl
@[simp] theorem takeReset_phase : (takeReset s).phase = .idle := rfl
@[simp] theorem takeReset_inputs : (takeReset s).inputs = s.inputs := rfl
@[simp] theorem takeReset_reads : (takeReset s).reads = s.reads := rfl
@[simp] theorem takeReset_draws : (takeReset s).draws = s.draws + 1 := rfl

end Sys2Proof.Machine
end

