-- ==== Sys2Proof/Laws/Ops.lean ====
section
/-! SUPPORT. One lemma for each shared operation that says once everything it can do; provers cite these instead of
unfolding the operation. -/

namespace Sys2Proof.Machine

variable {s t : State}

@[simp] theorem busy_eq_false_iff : s.busy = false ↔ s.phase = .idle := by simp [State.busy]

@[simp] theorem busy_eq_true_iff : s.busy = true ↔ s.phase ≠ .idle := by simp [State.busy]

theorem raiseError_of_clear (e : ErrCode) (h : s.err = false) :
    raiseError e s = { s with err := true, errcode := e } := by simp [raiseError, h]

theorem raiseError_of_set (e : ErrCode) (h : s.err = true) : raiseError e s = s := by simp [raiseError, h]

/-- Recording an error changes ERR and ERRCODE only (R262). -/
theorem raiseError_eq (e : ErrCode) (s : State) :
    raiseError e s = { s with err := true, errcode := if s.err then s.errcode else e } := by
  cases h : s.err <;> simp [raiseError, h]
  rw [← h]

@[simp] theorem raiseError_busy (e : ErrCode) (s : State) : (raiseError e s).busy = s.busy := by simp [State.busy]

theorem guardedWrite_of_idle (f : State → State) (h : s.busy = false) : guardedWrite f s = f s := by
  simp [guardedWrite, h]

theorem guardedWrite_of_busy (f : State → State) (h : s.busy = true) : guardedWrite f s = raiseError .busyWrite s := by
  simp [guardedWrite, h]

/-- A guarded write records BUSY_WRITE or takes effect, and which one is BUSY's alone (R220). -/
theorem guardedWrite_cases (f : State → State) (s : State) :
    (s.busy = true ∧ guardedWrite f s = raiseError .busyWrite s) ∨ (s.busy = false ∧ guardedWrite f s = f s) := by
  cases h : s.busy
  · exact .inr ⟨rfl, guardedWrite_of_idle f h⟩
  · exact .inl ⟨rfl, guardedWrite_of_busy f h⟩

theorem acceptCipher_of_valid (m : Mode) (h : s.ksv = true) :
    acceptCipher m s = { s with mode := m, done := false, phase := .ciInit } := by simp [acceptCipher, h]

theorem acceptCipher_of_invalid (m : Mode) (h : s.ksv = false) : acceptCipher m s = raiseError .noSubkeys s := by
  simp [acceptCipher, h]

/-- A delivered read appends one byte to the bytes read and may advance the draw counter; nothing else (R55). -/
theorem deliver_cases (v : ReadValue) (s : State) :
    (∃ b, v = .byte b ∧ deliver v s = { s with reads := s.reads ++ [b] }) ∨
    (v = .draw ∧ deliver v s = { s with reads := s.reads ++ [Config.draw8 s.draws], draws := s.draws + 1 }) := by
  cases v with
  | byte b => exact .inl ⟨b, rfl, rfl⟩
  | draw => exact .inr ⟨rfl, rfl⟩

/-! ### The register map -/

theorem selectReg_keyAddr (j : Fin 8) : selectReg (keyAddr j) = .key j := by revert j; decide

theorem selectReg_dataAddr (j : Fin 8) : selectReg (dataAddr j) = .data j := by revert j; decide

theorem selectReg_cmdAddr : selectReg cmdAddr = .cmd := by decide

theorem selectReg_statusAddr : selectReg statusAddr = .status := by decide

theorem selectReg_errcodeAddr : selectReg errcodeAddr = .errcode := by decide

theorem selectReg_windowAddr (i : Fin 16) (j : Fin 8) : selectReg (windowAddr i j) = .window i j := by
  have h : (windowAddr i j).toNat = 0x40 + 8 * i.val + j.val := by
    simp only [windowAddr, BitVec.toNat_ofNat]; omega
  simp only [selectReg, h]
  rw [dif_neg (by omega), dif_neg (by omega), if_neg (by omega), if_neg (by omega), if_neg (by omega),
    if_neg (by omega), dif_pos (by omega)]
  congr 1 <;> apply Fin.ext <;> simp only <;> omega

/-- Each address that names something is that thing's address (R51). -/
theorem addr_of_selectReg (a : Addr) :
    (∀ j, selectReg a = .key j → a = keyAddr j) ∧ (∀ j, selectReg a = .data j → a = dataAddr j) ∧
    (selectReg a = .cmd → a = cmdAddr) := by
  unfold selectReg
  refine ⟨fun j h => ?_, fun j h => ?_, fun h => ?_⟩
  · have : a.toNat = j.val := by
      split at h
      · exact congrArg (fun r => match r with | .key j => j.val | _ => 0) h
      · repeat' split at h
        all_goals cases h
    apply BitVec.eq_of_toNat_eq
    rw [this, keyAddr, BitVec.toNat_ofNat]
    omega
  · have : a.toNat = 0x08 + j.val := by
      split at h
      · cases h
      · split at h
        · have := congrArg (fun r => match r with | .data j => j.val | _ => 0) h
          simp only at this
          omega
        · repeat' split at h
          all_goals cases h
    apply BitVec.eq_of_toNat_eq
    rw [this, dataAddr, BitVec.toNat_ofNat]
    omega
  · have : a.toNat = 0x10 := by
      repeat' split at h
      all_goals first | assumption | cases h
    exact BitVec.eq_of_toNat_eq this

/-! ### Command bytes -/

/-- A command byte decodes to an opcode exactly when it is that opcode's byte (R72, R78). -/
theorem decodeCmdByte_ok_iff (c : Byte) (op : CmdOp) : decodeCmdByte c = .ok op ↔ c = op.byte := by
  revert c; cases op <;> decide

theorem decodeCmdByte_byte (op : CmdOp) : decodeCmdByte op.byte = .ok op := (decodeCmdByte_ok_iff _ _).mpr rfl

/-- The reserved bytes are the ones that decode to no opcode (R74). -/
theorem decodeCmdByte_error_iff (c : Byte) :
    (∃ e, decodeCmdByte c = .error e) ↔ c.extractLsb' 4 4 ≠ 0#4 ∨ 5 ≤ (c.extractLsb' 0 4).toNat := by
  constructor
  · rintro ⟨e, he⟩
    by_contra hc
    rw [not_or, not_not, Nat.not_le] at hc
    obtain ⟨h0, h1⟩ := hc
    revert he
    have : (c.extractLsb' 0 4).toNat = 0 ∨ (c.extractLsb' 0 4).toNat = 1 ∨ (c.extractLsb' 0 4).toNat = 2 ∨
        (c.extractLsb' 0 4).toNat = 3 ∨ (c.extractLsb' 0 4).toNat = 4 := by omega
    rcases this with h | h | h | h | h <;> simp [decodeCmdByte, h0, h]
  · rintro (h | h)
    · exact ⟨_, if_pos h⟩
    · by_cases h0 : c.extractLsb' 4 4 ≠ 0#4
      · exact ⟨_, if_pos h0⟩
      · refine ⟨.reservedOpcode, ?_⟩
        simp only [decodeCmdByte, if_neg h0]
        split <;> first | rfl | omega

theorem writeCmd_byte (op : CmdOp) (s : State) : writeCmd op.byte s = performCommand op s := by
  simp [writeCmd, decodeCmdByte_byte]

theorem writeCmd_reserved (c : Byte) (s : State) (h : c.extractLsb' 4 4 ≠ 0#4 ∨ 5 ≤ (c.extractLsb' 0 4).toNat) :
    writeCmd c s = raiseError .illegalCmd s := by
  obtain ⟨e, he⟩ := (decodeCmdByte_error_iff c).mpr h
  simp [writeCmd, he]

/-! ### One step -/

/-- Everything a step can be (70_reset_and_hazards.md R293): a transaction's instruction, a turn of the engine, or a
reset. -/
theorem step_cases (s : State) :
    (∃ T rest, s.inputs = .bus T :: rest ∧ step s = exec (decodeBus T) { s with inputs := rest }) ∨
    (s.inputs = [] ∧ step s = .next (engineTurn s)) ∨
    (∃ rest, s.inputs = .engine :: rest ∧ step s = .next (engineTurn { s with inputs := rest })) ∨
    (∃ rest, s.inputs = .reset :: rest ∧ step s = .next (takeReset { s with inputs := rest })) := by
  unfold step
  cases h : s.inputs with
  | nil => exact .inr (.inl ⟨rfl, rfl⟩)
  | cons x rest =>
    cases x with
    | bus T => exact .inl ⟨T, rest, rfl, rfl⟩
    | engine => exact .inr (.inr (.inl ⟨rest, rfl, rfl⟩))
    | reset => exact .inr (.inr (.inr ⟨rest, rfl, rfl⟩))

/-- The internal step that each phase selects (R293). -/
theorem engineTurn_cases (s : State) :
    (s.phase = .idle ∧ engineTurn s = s) ∨ (s.phase = .ksSplit ∧ engineTurn s = ksSplitStep s) ∨
    (∃ i, s.phase = .ksRound i ∧ engineTurn s = ksRoundStep i s) ∨
    (s.phase = .ciInit ∧ engineTurn s = ciInitStep s) ∨
    (∃ i, s.phase = .ciRound i ∧ engineTurn s = ciRoundStep i s) ∨
    (s.phase = .ciFinal ∧ engineTurn s = ciFinalStep s) := by
  unfold engineTurn
  cases h : s.phase <;> simp

/-- Everything a taken register write can do (R220, R222 to R226, 20_memory.md R57). -/
theorem writeReg_cases (sel : RegSel) (b : Byte) (s : State) :
    (∃ j, sel = .key j ∧ writeReg sel b s = writeKeyByte j b s) ∨
    (∃ j, sel = .data j ∧ writeReg sel b s = writeDataByte j b s) ∨
    (sel = .cmd ∧ ∃ op, b = op.byte ∧ writeReg sel b s = performCommand op s) ∨
    (sel = .cmd ∧ (∀ op : CmdOp, b ≠ op.byte) ∧ writeReg sel b s = raiseError .illegalCmd s) ∨
    writeReg sel b s = s := by
  cases sel with
  | key j => exact .inl ⟨j, rfl, rfl⟩
  | data j => exact .inr (.inl ⟨j, rfl, rfl⟩)
  | cmd =>
    cases h : decodeCmdByte b with
    | ok op =>
      have hb := (decodeCmdByte_ok_iff b op).mp h
      exact .inr (.inr (.inl ⟨rfl, op, hb, by simp [writeReg, writeCmd, h]⟩))
    | error e =>
      refine .inr (.inr (.inr (.inl ⟨rfl, ?_, by simp [writeReg, writeCmd, h]⟩)))
      intro op hb
      rw [(decodeCmdByte_ok_iff b op).mpr hb] at h
      cases h
  | status => exact .inr (.inr (.inr (.inr rfl)))
  | errcode => exact .inr (.inr (.inr (.inr rfl)))
  | window i j => exact .inr (.inr (.inr (.inr rfl)))
  | unmapped => exact .inr (.inr (.inr (.inr rfl)))

/-! ### Bytes of a 64-bit register -/

theorem getLsbD_setByte (v : Block64) (j : Fin 8) (b : Byte) (p : Nat) :
    (setByte v j b).getLsbD p =
      if 56 - 8 * j.val ≤ p ∧ p < 64 - 8 * j.val then b.getLsbD (p - (56 - 8 * j.val)) else v.getLsbD p := by
  have hj := j.isLt
  simp only [setByte, BitVec.getLsbD_or, BitVec.getLsbD_and, BitVec.getLsbD_not, BitVec.getLsbD_shiftLeft,
    BitVec.getLsbD_setWidth]
  by_cases hp : p < 64
  · by_cases h1 : p < 56 - 8 * j.val
    · have : ¬(56 - 8 * j.val ≤ p ∧ p < 64 - 8 * j.val) := by omega
      rw [if_neg this]
      simp [h1, hp]
    · by_cases h2 : p < 64 - 8 * j.val
      · have hc : 56 - 8 * j.val ≤ p ∧ p < 64 - 8 * j.val := by omega
        have hk : p - (56 - 8 * j.val) < 8 := by omega
        have hff : (0xFF#64).getLsbD (p - (56 - 8 * j.val)) = true := by
          generalize p - (56 - 8 * j.val) = k at hk
          interval_cases k <;> decide
        have h64 : p - (56 - 8 * j.val) < 64 := by omega
        simp [hc, h1, hp, hff, h64]
      · have hc : ¬(56 - 8 * j.val ≤ p ∧ p < 64 - 8 * j.val) := by omega
        have hk : 8 ≤ p - (56 - 8 * j.val) := by omega
        have hff : (0xFF#64).getLsbD (p - (56 - 8 * j.val)) = false := by
          have : (0xFF#64) = (0xFF#8).setWidth 64 := by decide
          rw [this, BitVec.getLsbD_setWidth, BitVec.getLsbD_of_ge _ _ hk, Bool.and_false]
        have hb : b.getLsbD (p - (56 - 8 * j.val)) = false := BitVec.getLsbD_of_ge _ _ hk
        rw [if_neg hc]
        simp [h1, hp, hff, hb]
  · have hc : ¬(56 - 8 * j.val ≤ p ∧ p < 64 - 8 * j.val) := by omega
    have hv : v.getLsbD p = false := BitVec.getLsbD_of_ge _ _ (by omega)
    rw [if_neg hc]
    simp [hp, hv]

theorem getLsbD_byteOf (v : Block64) (j : Fin 8) (k : Nat) (hk : k < 8) :
    (byteOf v j.val).getLsbD k = v.getLsbD (56 - 8 * j.val + k) := by
  have hj := j.isLt
  simp only [byteOf, slice, BitVec.getLsbD_extractLsb', hk, decide_true, Bool.true_and]
  congr 1
  omega

/-- The written byte reads back, and every other byte is unchanged (R222, R223). -/
theorem byteOf_setByte (v : Block64) (j j' : Fin 8) (b : Byte) :
    byteOf (setByte v j b) j'.val = if j' = j then b else byteOf v j'.val := by
  apply BitVec.eq_of_getLsbD_eq
  intro k hk
  have h1 := j.isLt
  have h2 := j'.isLt
  rw [getLsbD_byteOf _ _ _ hk, getLsbD_setByte]
  by_cases h : j' = j
  · subst h
    rw [if_pos (by omega), if_pos rfl]
    congr 1
    omega
  · have hne : j'.val ≠ j.val := fun e => h (Fin.ext e)
    rw [if_neg (by omega), if_neg h, getLsbD_byteOf _ _ _ hk]

/-- Two 64-bit values with the same eight bytes are equal. -/
theorem eq_of_byteOf_eq {u v : Block64} (h : ∀ j : Fin 8, byteOf u j.val = byteOf v j.val) : u = v := by
  apply BitVec.eq_of_getLsbD_eq
  intro p hp
  have e := congrArg (fun x => BitVec.getLsbD x (p % 8)) (h ⟨7 - p / 8, by omega⟩)
  have hk : p % 8 < 8 := by omega
  simp only [getLsbD_byteOf u ⟨7 - p / 8, by omega⟩ _ hk, getLsbD_byteOf v ⟨7 - p / 8, by omega⟩ _ hk] at e
  have : 56 - 8 * (7 - p / 8) + p % 8 = p := by omega
  simpa [this] using e

end Sys2Proof.Machine
end

