-- ==== Sys2Proof/Laws/Driver.lean ====
section
/-! SUPPORT. The host's programs: one lemma for what a transaction after some turns of the engine does, and the
equations of `drive`. -/

namespace Sys2Proof.Machine

variable {s t : State}

/-- A turn of the engine neither reads nor writes the events of the run. -/
theorem engineTurn_setInputs (s : State) (inputs : List Input) :
    engineTurn { s with inputs := inputs } = { engineTurn s with inputs := inputs } := by
  obtain ⟨h, e⟩ | ⟨h, e⟩ | ⟨i, h, e⟩ | ⟨h, e⟩ | ⟨i, h, e⟩ | ⟨h, e⟩ := engineTurn_cases s <;> rw [e] <;>
    simp only [engineTurn, h]
  · rfl
  · by_cases hi : i.val + 1 < 16 <;> simp [ksRoundStep, hi, completeKeysched]
  · rfl
  · by_cases hi : i.val + 1 < 16 <;> simp [ciRoundStep, hi]
  · rfl

theorem engineTurns_setInputs (n : Nat) (s : State) (inputs : List Input) :
    engineTurns n { s with inputs := inputs } = { engineTurns n s with inputs := inputs } := by
  induction n generalizing s with
  | zero => rfl
  | succ n ih => rw [engineTurns, engineTurn_setInputs, ih]; rfl

@[simp] theorem engineTurns_inputs (n : Nat) (s : State) : (engineTurns n s).inputs = s.inputs := by
  have := congrArg State.inputs (engineTurns_setInputs n s s.inputs)
  exact this

/-- In IDLE the engine has nothing to do (R293). -/
theorem engineTurns_of_idle (n : Nat) (h : s.phase = .idle) : engineTurns n s = s := by
  induction n with
  | zero => rfl
  | succ n ih => rw [engineTurns, show engineTurn s = s by simp [engineTurn, h], ih]

/-- Some turns of the engine, and then the transaction that stands next. -/
theorem run_turns_bus (n : Nat) (T : BusWord) (rest : List Input) (s : State)
    (h : s.inputs = List.replicate n .engine ++ .bus T :: rest) :
    run (n + 1) s = exec (decodeBus T) { engineTurns n s with inputs := rest } := by
  induction n generalizing s with
  | zero =>
    simp only [List.replicate_zero, List.nil_append] at h
    simp only [run, step, h, engineTurns]
    cases exec (decodeBus T) { s with inputs := rest } <;> rfl
  | succ n ih =>
    simp only [List.replicate_succ, List.cons_append] at h
    have hs : step s = .next (engineTurn { s with inputs := List.replicate n .engine ++ .bus T :: rest }) := by
      simp only [step, h]
    rw [run, hs]
    simp only
    rw [ih _ (by rw [engineTurn_setInputs]), engineTurn_setInputs, engineTurns_setInputs]
    rfl

/-- What a transaction of a host program does: the block takes its turns, and then runs the transaction's
instruction. -/
theorem issueAfter_eq (n : Nat) (i : Instr) (s : State) :
    issueAfter n i s = exec (decodeBus (encode i).transaction) (engineTurns n s) := by
  rw [issueAfter, run_turns_bus n (encode i).transaction s.inputs _ (by simp [transactions]), engineTurns_setInputs]
  congr 1
  apply State.ext <;> simp

theorem drive_nil (schedule : List Nat) (s : State) : drive schedule [] s = .finished s schedule := by
  cases schedule <;> rfl

theorem drive_of_next (n : Nat) (schedule : List Nat) (op : HostOp) (ops : List HostOp)
    (h : issueAfter n op.instr s = .next t) :
    drive (n :: schedule) (op :: ops) s = drive schedule (if op.over (lastRead t) then ops else op :: ops) t := by
  simp only [drive, h]

end Sys2Proof.Machine
end

