-- ==== Sys2Proof/Laws/PerInstr.lean ====
section
/-! SUPPORT. Statements made once per instruction, about the instruction as syntax. -/

namespace Sys2Proof.Laws.RowMatch

/-- `mask` and `match` of an instruction's row of spec/opcode_table.json (30_encoding.md R78). -/
def row : Instr → Nat × Nat
  | .wr _ _ => (0x10000, 0x10000)
  | .rd _ => (0x10000, 0x00000)
  | .nop => (0xFF, 0x00)
  | .keysched => (0xFF, 0x01)
  | .encrypt => (0xFF, 0x02)
  | .decrypt => (0xFF, 0x03)
  | .clrerr => (0xFF, 0x04)

/-- The number an encoded word reads as. -/
def value : EncodedWord → Nat
  | .bus T => T.toNat
  | .cmd c => c.toNat

/-- The word of an instruction matches the instruction's row: `word & mask = match` (R78). -/
def Statement (i : Instr) : Prop := value (encode i) &&& (row i).1 = (row i).2

theorem wr (addr : Addr) (data : Byte) : Statement (.wr addr data) := by
  have h : encodeWr addr data &&& 0x10000#17 = 0x10000#17 := by
    unfold encodeWr
    apply BitVec.eq_of_getLsbD_eq
    intro p hp
    interval_cases p <;> simp
  have e := congrArg BitVec.toNat h
  simpa [Statement, value, encode, row] using e

theorem rd (addr : Addr) : Statement (.rd addr) := by
  have h : encodeRd addr &&& 0x10000#17 = 0#17 := by
    unfold encodeRd
    apply BitVec.eq_of_getLsbD_eq
    intro p hp
    interval_cases p <;> simp
  have e := congrArg BitVec.toNat h
  simpa [Statement, value, encode, row] using e

theorem nop : Statement .nop := by unfold Statement; decide

theorem keysched : Statement .keysched := by unfold Statement; decide

theorem encrypt : Statement .encrypt := by unfold Statement; decide

theorem decrypt : Statement .decrypt := by unfold Statement; decide

theorem clrerr : Statement .clrerr := by unfold Statement; decide

end Sys2Proof.Laws.RowMatch
end

