-- ==== Sys2Proof/Tests/Slice0.lean ====
section
/-! SUPPORT. Tests. Every expected value is the spec's: the words are written out from 30_encoding.md, the values are
those of 95_test_vectors.md (V<n>) and of the rules' own examples. The last part shows, for each obligation with
hypotheses, concrete states and operands that meet them. -/

namespace Sys2Proof.Tests

open Sys2Proof Sys2Proof.Machine

/-! ## Ill-formed data is refused -/

theorem test_table_entry_out_of_range : tableValid 2 #v[3] = false := by decide
theorem test_table_entry_zero : tableValid 2 #v[0] = false := by decide
theorem test_sbox_row_repeats : sboxRowValid (List.replicate 16 (7 : BitVec 4)) = false := by decide
theorem test_sbox_row_short : sboxRowValid [0, 1, 2, 3] = false := by decide
theorem test_command_reserved_bits : commandByteLegal 0x12 = false := by decide
theorem test_command_reserved_opcode : commandByteLegal 0x05 = false := by decide
theorem test_host_duty_broken : (Instr.wr 0x10 0x81).meetsHostDuty = false := by decide
theorem test_host_duty_kept : (Instr.wr 0x10 0x04).meetsHostDuty = true := by decide
theorem test_key_text_too_long : keyTextFits (List.replicate 9 0x61) = false := by decide
theorem test_host_block_too_long : hostBlockFits (List.replicate 9 0x61) = false := by decide

/-! ## Decoding, from words written out bit by bit (30_encoding.md R70 to R72, R74) -/

theorem test_decode_wr : decodeTableWord 24 0b1_00000101_10111100 = some (.wr 0x05 0xBC) := by decide
theorem test_decode_rd : decodeTableWord 24 0b0_01000000_00000000 = some (.rd 0x40) := by decide
theorem test_decode_rd_ignores_wdata : decodeTableWord 24 0b0_00010001_11111111 = some (.rd 0x11) := by decide
theorem test_decode_nop : decodeTableWord 8 0b0000_0000 = some .nop := by decide
theorem test_decode_keysched : decodeTableWord 8 0b0000_0001 = some .keysched := by decide
theorem test_decode_encrypt : decodeTableWord 8 0b0000_0010 = some .encrypt := by decide
theorem test_decode_decrypt : decodeTableWord 8 0b0000_0011 = some .decrypt := by decide
theorem test_decode_clrerr : decodeTableWord 8 0b0000_0100 = some .clrerr := by decide
theorem test_decode_reserved_opcode : decodeTableWord 8 0b0000_1111 = none := by decide
theorem test_decode_reserved_bits : decodeTableWord 8 0b1000_0001 = none := by decide

/-- The transaction words of program P1 and R70's own example. -/
theorem test_encode_words :
    (encode (.wr 0x10 0x01)).transaction = 0x11001 ∧ (encode (.wr 0x05 0xBC)).transaction = 0x105BC ∧
    (encode (.rd 0x11)).transaction = 0x01100 ∧ (encode .clrerr).transaction = 0x11004 := by decide

/-! ## Datapath vectors -/

/-- V3a. -/
theorem test_getBit : getBit 0x0123456789ABCDEF#64 8 = .ok true ∧ getBit 0x0123456789ABCDEF#64 1 = .ok false ∧
    getBit 0#64 0 = .error .preconditionViolation ∧ getBit 0#64 65 = .error .preconditionViolation := by decide
/-- V3a. -/
theorem test_putBit : putBit 0x00#8 1 true = .ok 0x80 ∧ putBit 0xFF#8 8 false = .ok 0xFE := by decide
/-- V4. -/
theorem test_permute : permute 0b1010#4 #v[4, 3, 2, 1] = .ok 0b0101 ∧ permute 0b10#2 #v[1, 1, 2] = .ok 0b110 ∧
    permute 0b10#2 #v[3] = .error .preconditionViolation ∧ permute 0xFF#8 #v[] = .ok 0#0 := by decide
/-- V5. -/
theorem test_rotl : rotl 0x8000000#28 1 = 0x0000001 ∧ rotl 0xC000000#28 2 = 0x0000003 ∧
    rotl 0xF0CCAAF#28 2 = 0xC332ABF ∧ rotl 0xF0CCAAF#28 28 = 0xF0CCAAF := by decide
/-- V6. -/
theorem test_expand : expand 0x80000000 = 0x400000000001 ∧ expand 0x00000001 = 0x800000000002 ∧
    expand 0xF0AAF0AA = 0x7A15557A1555 := by decide +kernel
/-- V7, columns 0x21 and 0x1E, all eight boxes. -/
theorem test_sboxes :
    (List.finRange 8).map (substitute 0x21#6) = [0xF, 0xD, 0x1, 0x3, 0xB, 0x4, 0x6, 0x2] ∧
    (List.finRange 8).map (substitute 0x1E#6) = [0x7, 0xA, 0x8, 0xF, 0x9, 0xB, 0x1, 0x7] := by decide +kernel
/-- V8. -/
theorem test_roundF : roundF 0x00000000 0x000000000000 = 0xD8D8DBBC ∧ roundF 0xFFFFFFFF 0 = 0x38DBF9CB ∧
    roundF 0xF0AAF0AA 0x1B02EFFC7072 = 0x234AA9BB := by decide +kernel
/-- V9. -/
theorem test_pTable : applyTable pTable 0x80000000 = 0x00800000 ∧ applyTable pTable 0x00000001 = 0x00000800 := by
  decide +kernel
/-- V10. -/
theorem test_ip_fp : applyTable ipTable 0x0123456789ABCDEF = 0xCC00CCFFF0AAF0AA ∧
    applyTable fpTable 0x0123456789ABCDEF = 0xFF330FAA00330FAA ∧
    applyTable fpTable 0x0000000000000001 = 0x0200000000000000 := by decide +kernel
/-- V11. -/
theorem test_pc1 : applyTable pc1c 0x133457799BBCDFF1 = 0xF0CCAAF ∧ applyTable pc1d 0x133457799BBCDFF1 = 0x556678F ∧
    applyTable pc1c 1 = 0 ∧ applyTable pc1d 1 = 0 := by decide +kernel
/-- V12. -/
theorem test_pc2 : applyTable pc2 0xE19955FAACCF1E = 0x1B02EFFC7072 ∧ applyTable pc2 0x80000000000000 = 0x080000000000 ∧
    applyTable pc2 0x00000000000001 = 0x000000000100 ∧ applyTable pc2 0x00800000000000 = 0 := by decide +kernel
/-- V1, the key schedule. -/
theorem test_keySchedule : keySchedule 0x133457799BBCDFF1 = #v[
    0x1B02EFFC7072, 0x79AED9DBC9E5, 0x55FC8A42CF99, 0x72ADD6DB351D, 0x7CEC07EB53A8, 0x63A53E507B2F,
    0xEC84B7F618BC, 0xF78A3AC13BFB, 0xE0DBEBEDE781, 0xB1F347BA464F, 0x215FD3DED386, 0x7571F59467E9,
    0x97C5D1FABA41, 0x5F43B7F2E73A, 0xBF918D3D3F0A, 0xCB3D8B0E17F5] := by decide +kernel
/-- V15. -/
theorem test_keySchedule_weak : keySchedule 0x1F1F1F1F0E0E0E0E = Vector.replicate 16 0x000000FFFFFF := by decide +kernel
/-- V1, the source's ciphertext. -/
theorem test_encrypt_source_vector : encryptBlock 0x0123456789ABCDEF 0x133457799BBCDFF1 = 0x85E813540F0AB405 := by
  decide +kernel
/-- V2. -/
theorem test_decrypt_source_vector : decryptBlock 0x85E813540F0AB405 0x133457799BBCDFF1 = 0x0123456789ABCDEF := by
  decide +kernel
/-- V16, a row the source does not give. -/
theorem test_encrypt_known_answer : encryptBlock 0x4E6F772069732074 0x0123456789ABCDEF = 0x3FA40E8A984D4815 := by
  decide +kernel
/-- V19. -/
theorem test_prepareKey : prepareKey [0x61, 0x62, 0x63] = .ok 0x6162630000000000 ∧ prepareKey [] = .ok 0 ∧
    prepareKey (List.replicate 9 0x61) = .error .keyTooLong := by decide
/-- V19: `Hi!` is padded, and stripped again; `41 00` loses its last byte. -/
theorem test_padding : padBlock [0x48, 0x69, 0x21] = .ok (some 0x4869210000000000) ∧ padBlock [] = .ok none ∧
    stripPadding 0x4869210000000000 = [0x48, 0x69, 0x21] ∧ stripPadding 0x4100000000000000 = [0x41] ∧
    streamBytes [0, 0x4100000000000000] = [0, 0, 0, 0, 0, 0, 0, 0, 0x41] := by decide

/-! ## One step -/

/-- A small state: the source's key and block, and no run left. -/
def bench (phase : Phase) (ksv done err : Bool) (errcode : ErrCode) : State where
  key := 0x133457799BBCDFF1
  data := 0x0123456789ABCDEF
  ks := Vector.replicate 16 0x000000FFFFFF
  ksv := ksv
  done := done
  err := err
  errcode := errcode
  phase := phase
  mode := .enc
  c := 0xF0CCAAF
  d := 0x556678F
  l := 0xCC00CCFF
  r := 0xF0AAF0AA
  inputs := []
  reads := []
  draws := 0

/-- The bench idle, with no subkeys and no error. -/
def idle : State := bench .idle false false false .none

/-- The bench idle with valid subkeys, an operation done and no error (STATUS reads 0x06, R230). -/
def ready : State := bench .idle true true false .none

/-- The bench in the middle of a key schedule. -/
def busy : State := bench (.ksRound 3) false false false .none

/-- The state after one step, where it is a next state. -/
def stepped (s : State) : Option State :=
  match step s with
  | .next t => some t
  | .fault _ => none
  | .refused _ => none

/-- The state after the host issues one instruction. -/
def issue (i : Instr) (s : State) : Option State := stepped { s with inputs := [.bus (encode i).transaction] }

/-- The bytes a host has after one read. -/
def readOf (addr : Addr) (s : State) : Option (List Byte) := (issue (.rd addr) s).map (·.reads)

/-- V20: `WR KEY5, 0xBC` with KSV = 1, DONE = 1 leaves STATUS 0x04. -/
theorem test_wr_key : (issue (.wr 0x05 0xBC) ready).map (fun t => (byteOf t.key 5, t.ksv, statusByte t)) =
    some (0xBC, false, 0x04) := by decide
/-- V20: `WR DATA3, 0x55` while BUSY. -/
theorem test_wr_busy : (issue (.wr 0x0B 0x55) busy).map (fun t => (t.data, t.err, errcodeByte t)) =
    some (0x0123456789ABCDEF, true, 0x03) := by decide
/-- V20: `RD CMD` reads 0x00; `RD STATUS` after a KEYSCHED reads 0x06 (R230). -/
theorem test_rd : readOf 0x10 ready = some [0x00] ∧ readOf 0x11 ready = some [0x06] := by decide
/-- V20: a subkey read with KSV = 0 is a draw; padding reads 0x00; R52: bytes 0 and 7 of KEY. -/
theorem test_rd_window : readOf 0x40 idle = some [Config.draw8 0] ∧ readOf 0xBE idle = some [0x00] ∧
    readOf 0xB8 ready = some [0x00] ∧ readOf 0xBD ready = some [0xFF] ∧ readOf 0x00 idle = some [0x13] ∧
    readOf 0x07 idle = some [0xF1] := by
  refine ⟨rfl, ?_, ?_, ?_, ?_, ?_⟩ <;> decide
/-- V20: NOP changes nothing. -/
theorem test_nop : issue .nop ready = some ready := by decide
/-- V20: KEYSCHED starts with STATUS 0x01. -/
theorem test_keysched : (issue .keysched ready).map (fun t => (t.phase, statusByte t)) = some (.ksSplit, 0x01) := by
  decide
/-- V20: ENCRYPT with KSV = 0 is NO_SUBKEYS; with KSV = 1 it starts. -/
theorem test_encrypt : (issue .encrypt idle).map (fun t => (statusByte t, errcodeByte t)) = some (0x08, 0x02) ∧
    (issue .encrypt ready).map (fun t => (t.phase, t.mode, statusByte t)) = some (.ciInit, .enc, 0x03) := by decide
/-- V20: DECRYPT the same. -/
theorem test_decrypt : (issue .decrypt idle).map (fun t => (statusByte t, errcodeByte t)) = some (0x08, 0x02) ∧
    (issue .decrypt ready).map (fun t => (t.phase, t.mode)) = some (.ciInit, .dec) := by decide
/-- V20: CLRERR. -/
theorem test_clrerr : (issue .clrerr (bench .idle false false true .noSubkeys)).map
    (fun t => (statusByte t, errcodeByte t)) = some (0x00, 0x00) := by decide
/-- V20 and R224: reserved command bytes; the first error is kept. -/
theorem test_illegal_cmd : (issue (.wr 0x10 0x12) ready).map errcodeByte = some 0x01 ∧
    (issue (.wr 0x10 0x05) ready).map errcodeByte = some 0x01 ∧
    (issue (.wr 0x10 0x07) (bench .idle false false true .noSubkeys)).map errcodeByte = some 0x02 := by decide
/-- V1: KS_SPLIT and KS_ROUND(1). -/
theorem test_ks_steps :
    (stepped (bench .ksSplit false false false .none)).map (fun t => (t.c, t.d, t.phase)) =
      some (0xF0CCAAF, 0x556678F, .ksRound 0) ∧
    (stepped (bench (.ksRound 0) false false false .none)).map (fun t => (t.c, t.d, t.ks[0], t.phase)) =
      some (0xE19955F, 0xAACCF1E, 0x1B02EFFC7072, .ksRound 1) := by decide +kernel
/-- V1: CI_INIT, CI_ROUND(1) under KS[1], and CI_FINAL of L16, R16. -/
theorem test_ci_steps :
    (stepped (bench .ciInit true false false .none)).map (fun t => (t.l, t.r)) = some (0xCC00CCFF, 0xF0AAF0AA) ∧
    (stepped { bench (.ciRound 0) true false false .none with ks := Vector.replicate 16 0x1B02EFFC7072 }).map
      (fun t => (t.l, t.r, t.phase)) = some (0xF0AAF0AA, 0xEF4A6544, .ciRound 1) ∧
    (stepped { bench .ciFinal true false false .none with l := 0x43423234, r := 0x0A4CD995 }).map
      (fun t => (t.data, t.done, t.phase)) = some (0x85E813540F0AB405, true, .idle) := by decide +kernel
/-- R77: `POLL` reads STATUS until a read returns BUSY = 0. Here the first read sees CI_FINAL still to come (0x03), the
second comes after it (0x06); a schedule of one read is not enough. -/
theorem test_poll :
    (match drive [0, 1, 5] [.poll] (bench .ciFinal true false false .none) with
      | .finished t left => some (t.reads, left)
      | _ => none) = some ([0x03, 0x06], [5]) ∧
    (match drive [0] [.poll] (bench .ciFinal true false false .none) with
      | .waiting t => some t.reads
      | _ => none) = some [0x03] := by decide +kernel
/-- R244, R245: STATUS 0x06 lets a result be used; ERR (0x0E) and BUSY (0x03) do not. -/
theorem test_resultUsable : resultUsable 0x06 = true ∧ resultUsable 0x0E = false ∧ resultUsable 0x03 = false := by decide
/-- R245 and R296. -/
theorem test_dutyKept :
    dutyKept idle (.wr 0x07 0xFF) = true ∧ dutyKept busy (.wr 0x07 0xFF) = false ∧ dutyKept busy (.wr 0x08 0) = false ∧
    dutyKept idle (.wr 0x10 0x04) = true ∧ dutyKept busy (.wr 0x10 0x04) = false ∧
    dutyKept idle (.wr 0x10 0x05) = false ∧ dutyKept busy (.wr 0x30 0) = false ∧ dutyKept busy .clrerr = false ∧ dutyKept busy (.rd 0x08) = true := by decide
/-- R77: the six bytes of `RDSK` are the subkey, here V1's KS[1]. -/
theorem test_packSubkey : packSubkey [0x1B, 0x02, 0xEF, 0xFC, 0x70, 0x72] = 0x1B02EFFC7072 := by decide
/-- R241: the length 0 ends the input. -/
theorem test_padBlocks : padBlocks [[0x48, 0x69, 0x21], [], [0x41]] = .ok [0x4869210000000000] := by decide
/-- R240: a key text of 9 bytes is reported as Key-too-long whatever the blocks are; log 16 for a long block alone. -/
theorem test_encryptStream_reports :
    (match encryptStream (List.replicate 9 0x61) [List.replicate 9 0x62] [] idle with
      | .ok _ => none
      | .error e => some e) = some .keyTooLong ∧
    (match encryptStream [0x61] [[0x62], List.replicate 9 0x62] [] idle with
      | .ok _ => none
      | .error e => some e) = some .blockTooLong := by decide
/-- R244, R262: a stream that meets an error recorded before it is not trusted. -/
theorem test_driveBlocks_checks_err :
    (match driveBlocks .enc [0x0123456789ABCDEF] (List.replicate 19 18) (bench .idle true true true .noSubkeys) with
      | .ok _ => none
      | .error e => some e) = some .resultNotUsable := by
  decide +kernel
/-- R194: round 1 of a decryption takes KS[16]. -/
theorem test_decrypt_key_order :
    roundKey ((Vector.replicate 16 0).set 15 0xCB3D8B0E17F5) .dec 0 = 0xCB3D8B0E17F5 := by decide
/-- R290: what a host reads after reset, and that the machine behind the interface is this one. -/
theorem test_reset : statusByte State.reset = 0x00 ∧ errcodeByte State.reset = 0x00 ∧ State.reset.key = 0 := by decide

/-! ## Witnesses: states and operands that meet the hypotheses of each obligation that has some -/

/-- `s` with a run to go. -/
def facing (inputs : List Input) (s : State) : State := { s with inputs := inputs }

/-- `s` in another phase. -/
def inPhase (phase : Phase) (s : State) : State := { s with phase := phase }

/-- Sixteen turns of the engine with a refused write among them (`WR 0x30, 0x00`). -/
def sixteenTurns : List Input := List.replicate 7 .engine ++ .bus 0x13000 :: List.replicate 9 .engine

/-- The bench with the subkey file of its key. -/
def keyed : State := { ready with ks := keySchedule ready.key }

/-- `keyed` at the last step of an operation on the block in DATA. -/
def finishing (mode : Mode) : State :=
  { keyed with
    phase := .ciFinal
    mode := mode
    l := (feistelRounds keyed.ks mode (initialHalves keyed.data) 16).1
    r := (feistelRounds keyed.ks mode (initialHalves keyed.data) 16).2 }

theorem witness_DecodeAndEncodeAgree : decode (.cmd 0x04) = .ok .clrerr := by decide

theorem witness_OpcodeTableRowsDecideDecoding :
    (0x04 : Byte) &&& 0xFF = 0x04 ∧ (0x00 : Byte) &&& 0xFF = 0x00 ∧
    ((0x05 : Byte) &&& 0xFF ≠ 0x00 ∧ (0x05 : Byte) &&& 0xFF ≠ 0x01 ∧ (0x05 : Byte) &&& 0xFF ≠ 0x02 ∧
      (0x05 : Byte) &&& 0xFF ≠ 0x03 ∧ (0x05 : Byte) &&& 0xFF ≠ 0x04 ∧ idle.busy = false) ∧
    (0x10000 : BusWord) &&& 0x10000 = 0x10000 ∧ (0x0FFFF : BusWord) &&& 0x10000 = 0x00000 := by decide

theorem witness_StepRunsDecodedTransaction :
    (facing [.bus 0x11004, .engine] idle).inputs = .bus 0x11004 :: [.engine] ∧
    decode (.bus 0x11004) = .ok (.wr 0x10 0x04) := by decide

theorem witness_PlacedTableWordRunsNext : decodeTableWord 8 (0x04 : Byte).toNat = some .clrerr ∧
    decodeTableWord 24 (0x01100 : BusWord).toNat = some (.rd 0x11) := by decide

theorem witness_EngineTurnTakesAStepExactlyWhenBusy :
    (idle.inputs = [] ∧ idle.busy = false) ∧ (busy.inputs = [] ∧ busy.busy = true) ∧
    (facing [.engine, .reset] busy).inputs = .engine :: [.reset] ∧
    facing [.reset] busy = { facing [.engine, .reset] busy with inputs := [.reset] } := by decide

theorem witness_WriteRefusedWhileBusyElseDispatched :
    busy.busy = true ∧ idle.busy = false ∧
    (0x00 : Addr).toNat = 0x00 + (0 : Fin 8).val ∧ (0x07 : Addr).toNat = 0x00 + (7 : Fin 8).val ∧
    (0x08 : Addr).toNat = 0x08 + (0 : Fin 8).val ∧ (0x0F : Addr).toNat = 0x08 + (7 : Fin 8).val ∧
    (0x10 : Addr).toNat = 0x10 ∧ 0x11 ≤ (0x11 : Addr).toNat ∧ 0x11 ≤ (0xFF : Addr).toNat := by decide

theorem witness_KeyByteWriteClearsSubkeysValid :
    idle.busy = false ∧ (0 : Fin 8) ≠ 7 ∧ (0 : Fin 8).val < 6 ∧ (5 : Fin 8).val < 6 := by decide

theorem witness_DataByteWriteChangesOneByte : idle.busy = false ∧ (7 : Fin 8) ≠ 0 := by decide

theorem witness_CmdWriteRunsTheNamedCommand :
    idle.busy = false ∧ (0x12 : Byte).extractLsb' 4 4 ≠ 0#4 ∧
    (5 ≤ ((0x05 : Byte).extractLsb' 0 4).toNat ∧ 5 ≤ ((0x0F : Byte).extractLsb' 0 4).toNat) ∧
    (∀ c ∈ [(0x00 : Byte), 0x01, 0x02, 0x03, 0x04], c.extractLsb' 4 4 = 0#4 ∧ c.extractLsb' 0 4 = c.setWidth 4) ∧
    exec (.wr 0x10 0x00) idle = .next idle := ⟨by decide, by decide, by decide, by decide, rfl⟩

theorem witness_UnmappedAndReadOnlyAddressesAreInert :
    idle.busy = false ∧
    (∀ a ∈ [(0x13 : Addr), 0x3F], 0x13 ≤ a.toNat ∧ a.toNat ≤ 0x3F) ∧
    (∀ a ∈ [(0xC0 : Addr), 0xFF], 0xC0 ≤ a.toNat) ∧
    (∀ a ∈ [(0x40 : Addr), 0xBF], 0x40 ≤ a.toNat ∧ a.toNat ≤ 0xBF) := by decide

theorem witness_EightByteWritesLoadARegister :
    idle.busy = false ∧ (facing (transactions (wrKey 0xA5) ++ [.reset]) idle).inputs = transactions (wrKey 0xA5) ++ [.reset] ∧
    (facing (transactions (wrData 0xA5)) idle).inputs = transactions (wrData 0xA5) ++ [] := by decide

theorem witness_NopChangesNothing : idle.busy = false ∧ busy.busy = true := by decide

theorem witness_ClrerrClearsTheError :
    idle.busy = false ∧ (busy.busy = true ∧ busy.err = false) ∧
    ((bench .ciInit true false true .noSubkeys).busy = true ∧ (bench .ciInit true false true .noSubkeys).err = true) ∧
    (statusByte (bench .idle false false true .noSubkeys) = 0x08 ∧
      errcodeByte (bench .idle false false true .noSubkeys) = 0x02 ∧
      exec .clrerr (bench .idle false false true .noSubkeys) = .next (bench .idle false false false .none)) :=
  ⟨by decide, by decide, by decide, by decide, by decide, rfl⟩

theorem witness_KeyschedAcceptance : idle.busy = false ∧ busy.busy = true := by decide

theorem witness_CipherCommandAcceptance :
    (ready.busy = false ∧ ready.ksv = true) ∧ (idle.busy = false ∧ idle.ksv = false) ∧ busy.busy = true := by decide

theorem witness_KeyAndDataReads : idle.busy = false ∧ busy.busy = true := by decide

theorem witness_StatusAndErrcodeReads :
    (ready.busy = false ∧ ready.ksv = true ∧ ready.done = true ∧ ready.err = false) ∧ ready.errcode = .none ∧
    (bench .idle false false true .illegalCmd).errcode = .illegalCmd ∧
    (bench .idle false false true .noSubkeys).errcode = .noSubkeys ∧
    (bench .ciFinal true false true .busyWrite).errcode = .busyWrite := by decide

theorem witness_SubkeyWindowRead :
    6 ≤ (6 : Fin 8).val ∧ (¬6 ≤ (5 : Fin 8).val ∧ ready.busy = false ∧ ready.ksv = true) ∧
    (¬6 ≤ (0 : Fin 8).val ∧ ¬(idle.busy = false ∧ idle.ksv = true)) ∧
    ¬(busy.busy = false ∧ busy.ksv = true) := by decide

theorem witness_RaiseErrorKeepsTheFirst :
    idle.err = false ∧ (bench .idle false false true .illegalCmd).err = true := by decide

theorem witness_ErrorPriorityWithinATransaction :
    busy.busy = true ∧ (idle.busy = false ∧ commandByteLegal 0x81 = false) ∧ idle.ksv = false ∧
    (ready.busy = false ∧ ¬((0x10 : Addr) = 0x10 ∧ (commandByteLegal 0x02 = false ∨
        ((0x02 : Byte) = 0x02 ∨ (0x02 : Byte) = 0x03) ∧ ready.ksv = false)) ∧ ready.err = false) := by decide

theorem witness_RefusedTransactionHasNoOtherEffect :
    (exec (.wr 0x0B 0x55) busy = .next (raiseError .busyWrite busy) ∧ busy.busy = true) ∧
    (exec (.wr 0x10 0x05) idle = .next (raiseError .illegalCmd idle) ∧ idle.busy = false ∧
      commandByteLegal 0x05 = false) ∧
    (exec (.wr 0x10 0x03) idle = .next (raiseError .noSubkeys idle) ∧ idle.ksv = false) :=
  ⟨⟨rfl, by decide⟩, ⟨rfl, by decide, by decide⟩, ⟨rfl, by decide⟩⟩

theorem witness_ErrorStateIsStickyAndHarmless :
    (∃ t, step (facing [.bus 0x11007] (bench .idle false false true .noSubkeys)) = .next t ∧
      (bench .idle false false true .noSubkeys).err = true ∧ t.err = true) ∧
    (∃ t, step (facing [.bus 0x11004] (bench .idle false false true .noSubkeys)) = .next t ∧ t.err = false) ∧
    (∀ addr, Instr.keysched ≠ .rd addr) ∧
    (∃ t, exec .keysched (bench .idle true true true .noSubkeys) = .next t) ∧
    ∃ t, exec .keysched { bench .idle true true true .noSubkeys with err := false, errcode := .none } = .next t :=
  ⟨⟨_, rfl, by decide, by decide⟩, ⟨_, rfl, by decide⟩, by simp, ⟨_, rfl⟩, ⟨_, rfl⟩⟩

theorem witness_KeyScheduleSteps :
    (facing [.engine] busy).inputs = .engine :: [] ∧ (inPhase .ksSplit busy).phase = .ksSplit ∧
    (inPhase (.ksRound 0) busy).phase = .ksRound 0 ∧ (0 : Fin 16).val + 1 < 16 ∧
    (inPhase (.ksRound 15) busy).phase = .ksRound 15 ∧ (15 : Fin 16).val = 15 ∧ (1 : Fin 16) ≠ 0 := by decide

theorem witness_CipherInitialAndFinalSteps :
    (facing [.engine] busy).inputs = .engine :: [] ∧ (inPhase .ciInit busy).phase = .ciInit ∧
    (inPhase .ciFinal busy).phase = .ciFinal := by decide

theorem witness_CiRoundStepTakesOneFeistelRound :
    (facing [.engine] busy).inputs = .engine :: [] ∧
    ((inPhase (.ciRound 0) busy).phase = .ciRound 0 ∧ busy.mode = .enc ∧ (0 : Fin 16).val + 1 < 16) ∧
    ((inPhase (.ciRound 15) busy).phase = .ciRound 15 ∧ (15 : Fin 16).val = 15) ∧
    ({ busy with mode := .dec } : State).mode = .dec ∧ (15 : Fin 16).val = 15 - (0 : Fin 16).val ∧
    (0 : Fin 16).val = 15 - (15 : Fin 16).val := by decide

theorem witness_ResetAbortsAnyOperation : (facing [.reset, .engine] busy).inputs = .reset :: [.engine] := by decide

/-- A taken KEY write, a taken DATA write, a CI_FINAL step and a reset, each of which changes its register. -/
theorem witness_KeyAndDataWrittenOnlyAsRuled :
    (∃ t, step (facing [.bus 0x10000] idle) = .next t ∧ t.key ≠ idle.key) ∧
    (∃ t, step (facing [.bus 0x10FAA] idle) = .next t ∧ t.data ≠ idle.data) ∧
    (∃ t, step (inPhase .ciFinal busy) = .next t ∧ t.data ≠ busy.data) ∧
    ∃ t, step (facing [.reset] busy) = .next t ∧ t.key ≠ busy.key ∧ t.data ≠ busy.data :=
  ⟨⟨_, rfl, by decide⟩, ⟨_, rfl, by decide⟩, ⟨_, rfl, by decide +kernel⟩, ⟨_, rfl, by decide, by decide⟩⟩

theorem witness_SubkeyEntryWrittenOnlyInItsRound :
    (∃ t, step (inPhase (.ksRound 0) busy) = .next t ∧ t.ks[(0 : Fin 16)] ≠ busy.ks[(0 : Fin 16)]) ∧
    ∃ t, step (inPhase (.ksRound 15) busy) = .next t ∧ t.ks[(15 : Fin 16)] ≠ busy.ks[(15 : Fin 16)] :=
  ⟨⟨_, rfl, by decide +kernel⟩, ⟨_, rfl, by decide +kernel⟩⟩

theorem witness_SubkeysValidChangesOnlyAsRuled :
    (∃ t, step (inPhase (.ksRound 15) idle) = .next t ∧ idle.ksv = false ∧ t.ksv = true) ∧
    (∃ t, step (facing [.bus 0x11001] ready) = .next t ∧ ready.ksv = true ∧ t.ksv = false) ∧
    (∃ t, step (facing [.bus 0x10713] ready) = .next t ∧ t.ksv = false) ∧
    ∃ t, step (facing [.reset] ready) = .next t ∧ t.ksv = false :=
  ⟨⟨_, rfl, rfl, rfl⟩, ⟨_, rfl, rfl, rfl⟩, ⟨_, rfl, rfl⟩, ⟨_, rfl, rfl⟩⟩

theorem witness_DoneChangesOnlyAsRuled :
    (∃ t, step (inPhase (.ksRound 15) idle) = .next t ∧ idle.done = false ∧ t.done = true) ∧
    (∃ t, step (inPhase .ciFinal idle) = .next t ∧ t.done = true ∧ (inPhase .ciFinal idle).engineNext) ∧
    (∃ t, step (facing [.bus 0x11001] ready) = .next t ∧ ready.done = true ∧ t.done = false) ∧
    (facing [.bus 0x11001] ready).writeTakenNext 0x10 0x01 ∧
    ready.ksv = true ∧ (facing [.bus 0x11002] ready).writeTakenNext 0x10 0x02 ∧
    (facing [.bus 0x11003] ready).writeTakenNext 0x10 0x03 :=
  ⟨⟨_, rfl, rfl, rfl⟩, ⟨_, rfl, rfl, .inl rfl⟩, ⟨_, rfl, rfl, rfl⟩, ⟨rfl, 0x11001, ⟨[], rfl⟩, rfl⟩, rfl,
    ⟨rfl, 0x11002, ⟨[], rfl⟩, rfl⟩, ⟨rfl, 0x11003, ⟨[], rfl⟩, rfl⟩⟩

/-- An idle state with valid subkeys, a state in the first round of a key schedule, and one inside an operation. -/
theorem witness_SubkeyFileInvariantPreserved :
    (SubkeysCurrent keyed ∧ keyed.ksv = true ∧ ∃ t, step keyed = .next t) ∧
    (SubkeysCurrent { keyed with ksv := false, phase := .ksRound 0, c := applyTable pc1c keyed.key,
                                 d := applyTable pc1d keyed.key }) ∧
    SubkeysCurrent (inPhase .ciInit keyed) :=
  ⟨⟨fun _ => rfl, rfl, _, rfl⟩, ⟨rfl, rfl, fun j h => absurd h (Nat.not_lt_zero j.val)⟩, rfl, rfl⟩

theorem witness_CipherRunInvariantPreserved :
    CipherOnTrack { keyed with phase := .ciRound 0, l := (initialHalves keyed.data).1, r := (initialHalves keyed.data).2 } ∧
    CipherOnTrack (finishing .dec) ∧ ∃ t, step (finishing .dec) = .next t :=
  ⟨by simp [CipherOnTrack, feistelRounds], by simp [CipherOnTrack, finishing, keyed, ready, bench],
    ⟨ciFinalStep (finishing .dec), rfl⟩⟩

theorem witness_StatusInvariantPreserved :
    StatusConsistent ready ∧ StatusConsistent busy ∧ StatusConsistent (bench .ciInit true false true .busyWrite) ∧
    ∃ t, step busy = .next t :=
  ⟨⟨by decide, by decide⟩, ⟨by decide, by decide⟩, ⟨by decide, by decide⟩, _, rfl⟩

theorem witness_FinalStepUsesTheCurrentKey : ∀ mode : Mode,
    SubkeysCurrent (finishing mode) ∧ CipherOnTrack (finishing mode) ∧ (finishing mode).engineNext ∧
    (finishing mode).phase = .ciFinal ∧ (∃ t, step (finishing mode) = .next t) ∧ (finishing mode).mode = mode :=
  fun mode => ⟨⟨rfl, rfl⟩, by simp [CipherOnTrack, finishing, keyed, ready, bench], .inl rfl, rfl,
    ⟨ciFinalStep (finishing mode), rfl⟩, rfl⟩

theorem witness_KeyschedEndsWithTheKeySchedule :
    idle.busy = false ∧ Input.reset ∉ sixteenTurns ∧ sixteenTurns.count .engine = 16 ∧
    (facing (sixteenTurns ++ [.engine]) idle).inputs = sixteenTurns ++ .engine :: [] := by decide

theorem witness_CipherCommandEndsWithCrypt :
    ready.busy = false ∧ ready.ksv = true ∧ Input.reset ∉ Input.engine :: sixteenTurns ∧
    (Input.engine :: sixteenTurns).count .engine = 17 ∧
    (facing (.engine :: sixteenTurns ++ [.engine]) ready).inputs = .engine :: sixteenTurns ++ .engine :: [] := by
  decide

theorem witness_OperationEndsWithinEighteenSteps : (inPhase .ciInit busy).inputs = [] := by decide

theorem witness_UnspecifiedElementsAreUnobservable :
    State.reset.phase = .idle ∧ State.reset.ksv = false ∧ (facing sixteenTurns idle).phase = .idle := by decide

theorem witness_PermuteReadsTheNamedBits :
    (∀ i : Fin 3, 1 ≤ (#v[1, 1, 2] : Vector Nat 3)[i] ∧ (#v[1, 1, 2] : Vector Nat 3)[i] ≤ 2) ∧
    (∃ i : Fin 1, (#v[3] : Vector Nat 1)[i] < 1 ∨ 2 < (#v[3] : Vector Nat 1)[i]) ∧
    ∃ i : Fin 1, (#v[0] : Vector Nat 1)[i] < 1 := by decide

theorem witness_BitAccessorRoundTrip : (1 ≤ 1 ∧ 1 ≤ 8) ∧ (1 ≤ 8 ∧ 8 ≤ 8) ∧ 9 ≠ 8 := by decide

theorem witness_BitAccessorOnAnyValueAndOnBytes :
    (1 ≤ 1 ∧ 1 ≤ 28) ∧ (1 ≤ 28 ∧ 28 ≤ 28 ∧ 28 ≠ 1) ∧ 0 < 1 ∧ 28 < 29 ∧
    (1 ≤ 16 ∧ 16 ≤ 8 * 2 ∧ 0 < 2 ∧ 0 ≠ (16 - 1) / 8) := by decide

theorem witness_RotationClosedFormAndComposition : (1 ≤ 1 ∧ 1 ≤ 28) ∧ (1 ≤ 28 ∧ 28 ≤ 28) := by decide

/-- V1's round 1, S8: B = 100111 is row 3, column 3. -/
theorem witness_SboxLookupAndAssembly :
    3 = 2 * (bitAt 0b100111#6 1).toNat + (bitAt 0b100111#6 6).toNat ∧
    3 = 8 * (bitAt 0b100111#6 2).toNat + 4 * (bitAt 0b100111#6 3).toNat + 2 * (bitAt 0b100111#6 4).toNat +
      (bitAt 0b100111#6 5).toNat := by decide

/-- First and last entries of E and P, and segments 0 and 7 of a mixed value. V8: complemented arguments have the same
mixed value. -/
theorem witness_RoundFunctionOfComplements :
    ([32, 1, 2, 3, 4, 5, 4, 5, 6, 7, 8, 9] ++ [8, 9, 10, 11, 12, 13, 12, 13, 14, 15, 16, 17] ++
      [16, 17, 18, 19, 20, 21, 20, 21, 22, 23, 24, 25] ++ [24, 25, 26, 27, 28, 29, 28, 29, 30, 31, 32, 1])[0]? = some 32 ∧
    ([32, 1, 2, 3, 4, 5, 4, 5, 6, 7, 8, 9] ++ [8, 9, 10, 11, 12, 13, 12, 13, 14, 15, 16, 17] ++
      [16, 17, 18, 19, 20, 21, 20, 21, 22, 23, 24, 25] ++ [24, 25, 26, 27, 28, 29, 28, 29, 30, 31, 32, 1])[47]? = some 1 ∧
    ([16, 7, 20, 21, 29, 12, 28, 17, 1, 15, 23, 26, 5, 18, 31, 10] ++
      [2, 8, 24, 14, 32, 27, 3, 9, 19, 13, 30, 6, 22, 11, 4, 25])[0]? = some 16 ∧
    ([16, 7, 20, 21, 29, 12, 28, 17, 1, 15, 23, 26, 5, 18, 31, 10] ++
      [2, 8, 24, 14, 32, 27, 3, 9, 19, 13, 30, 6, 22, 11, 4, 25])[31]? = some 25 ∧
    (0b011000#6 = slice (expand 0xF0AAF0AA ^^^ 0x1B02EFFC7072) (6 * (0 : Fin 8).val + 1) 6 ∧
      0b100111#6 = slice (expand 0xF0AAF0AA ^^^ 0x1B02EFFC7072) (6 * (7 : Fin 8).val + 1) 6) ∧
    expand 0x00000000 ^^^ 0xFFFFFFFFFFFF = expand 0xFFFFFFFF ^^^ 0x000000000000 ∧ (1 ≤ 1 ∧ 32 ≤ 32) := by decide +kernel

theorem witness_KeyScheduleFollowsTheLoop :
    [1, 1, 2, 2, 2, 2, 2, 2, 1, 2, 2, 2, 2, 2, 2, 1][(0 : Fin 16).val]? = some 1 ∧
    [1, 1, 2, 2, 2, 2, 2, 2, 1, 2, 2, 2, 2, 2, 2, 1][(15 : Fin 16).val]? = some 1 := by decide

theorem witness_KeyHalvesRotateCumulatively : 0 ≤ 16 ∧ 16 ≤ 16 := by decide

/-- V14's two keys. -/
theorem witness_ParityBitsDoNotReachTheSubkeys : ∀ i, 1 ≤ i → i ≤ 64 → i % 8 ≠ 0 →
    bitAt (0x133457799BBCDFF1 : Block64) i = bitAt (0x123556789ABDDEF0 : Block64) i := by
  intro i h1 h2 h3
  interval_cases i <;> first | rfl | exact absurd rfl h3

theorem witness_KeyPreparationPadsOrReports :
    8 < (List.replicate 9 (0x61 : Byte)).length ∧ (List.replicate 8 (0x61 : Byte)).length ≤ 8 ∧
    prepareKey [0x61, 0x62, 0x63] = .ok 0x6162630000000000 ∧ idle.busy = false ∧
    (facing (transactions (keyWrites [0x61, 0x62, 0x63])) idle).inputs =
      transactions (keyWrites [0x61, 0x62, 0x63]) ++ [] := by decide

theorem witness_PaddedBlockSurvivesTheRoundTrip :
    ([0x48, 0x69] : List Byte).length + 1 ≤ 8 ∧ (0x21 : Byte) ≠ 0x00 ∧
    (List.replicate 7 (0x00 : Byte)).length + 1 ≤ 8 := by decide

/-- A `POLL` that ends; a stream of one block that ends with a trusted result, from the idle bench and a schedule of the
length asked for; the texts of length 0 and 8. -/
theorem witness_TrustedDriverResultIsTheCipher :
    (∃ t, drive [1] [.poll] (bench .ciFinal true false false .none) = .finished t []) ∧
    ([] : List Byte).length ≤ 8 ∧ (List.replicate 8 (0x61 : Byte)).length ≤ 8 ∧ idle.busy = false ∧ idle.err = false ∧
    (∀ turns ∈ List.replicate 62 18, 1 ≤ turns) ∧ 26 + 36 * [(0 : Block64)].length ≤ (List.replicate 62 18).length ∧
    (driveStream [] .enc [0] (List.replicate 62 18) idle).isOk = true :=
  ⟨⟨_, rfl⟩, by decide, by decide, by decide, by decide, by decide, by decide, by decide +kernel⟩

end Sys2Proof.Tests
end

section
/-! What one step does, in the terms the claims are made in (70_reset_and_hazards.md R293), and the settled statements
of 10_state.md. -/

namespace Sys2Proof.Machine

/-! ### One step -/

/-- The state in which the run's next event takes effect: that event is used up. -/
def State.popInput (s : State) : State := { s with inputs := s.inputs.tail }

@[simp] theorem popInput_ksv (s : State) : s.popInput.ksv = s.ksv := rfl
@[simp] theorem popInput_done (s : State) : s.popInput.done = s.done := rfl
@[simp] theorem popInput_phase (s : State) : s.popInput.phase = s.phase := rfl
@[simp] theorem popInput_busy (s : State) : s.popInput.busy = s.busy := rfl

variable {s t : State} {addr : Addr} {data : Byte}

theorem step_of_engineNext (h : s.engineNext) : step s = .next (engineTurn s.popInput) := by
  obtain h | ⟨rest, h⟩ := h
  · have hpop : s.popInput = s := by simp [State.popInput, State.ext_iff, h]
    simp [step, h, hpop]
  · simp [step, h, State.popInput]

theorem step_of_hostNext {T : BusWord} (h : s.hostNext T) : step s = exec (decodeBus T) s.popInput := by
  obtain ⟨rest, h⟩ := h
  simp [step, h, State.popInput]

theorem step_of_resetNext (h : s.resetNext) : step s = .next (takeReset s.popInput) := by
  obtain ⟨rest, h⟩ := h
  simp [step, h, State.popInput]

theorem step_of_writeTakenNext (h : s.writeTakenNext addr data) :
    step s = .next (writeReg (selectReg addr) data s.popInput) := by
  obtain ⟨hbusy, T, hT, hdec⟩ := h
  rw [step_of_hostNext hT, hdec, exec, execWr, guardedWrite_of_idle (s := s.popInput) _ hbusy]

/-- Who has the next step: the engine, reset, or the host. -/
theorem engineNext_or_resetNext_or_hostNext (s : State) :
    s.engineNext ∨ s.resetNext ∨ ∃ T, s.hostNext T := by
  obtain ⟨T, rest, h, -⟩ | ⟨h, -⟩ | ⟨rest, h, -⟩ | ⟨rest, h, -⟩ := step_cases s
  · exact .inr (.inr ⟨T, rest, h⟩)
  · exact .inl (.inl h)
  · exact .inl (.inr ⟨rest, h⟩)
  · exact .inr (.inl ⟨rest, h⟩)

theorem decodeBus_cases (T : BusWord) :
    (∃ addr data, decodeBus T = .wr addr data) ∨ ∃ addr, decodeBus T = .rd addr := by
  unfold decodeBus
  split
  · exact .inl ⟨_, _, rfl⟩
  · exact .inr ⟨_, rfl⟩

/-- Everything a step can do: a turn of the engine, a reset, a write taken, a write refused while busy, or a read. -/
theorem step_next_cases (h : step s = .next t) :
    (s.engineNext ∧ t = engineTurn s.popInput) ∨
    (s.resetNext ∧ t = takeReset s.popInput) ∨
    (∃ addr data, s.writeTakenNext addr data ∧ t = writeReg (selectReg addr) data s.popInput) ∨
    (∃ T addr data, s.hostNext T ∧ decodeBus T = .wr addr data ∧ s.busy = true ∧
      t = raiseError .busyWrite s.popInput) ∨
    (∃ T addr, s.hostNext T ∧ decodeBus T = .rd addr ∧
      t = deliver (readReg (selectReg addr) s.popInput) s.popInput) := by
  obtain he | hr | ⟨T, hT⟩ := engineNext_or_resetNext_or_hostNext s
  · rw [step_of_engineNext he] at h
    exact .inl ⟨he, (Host.Outcome.next.inj h).symm⟩
  · rw [step_of_resetNext hr] at h
    exact .inr (.inl ⟨hr, (Host.Outcome.next.inj h).symm⟩)
  · rw [step_of_hostNext hT] at h
    obtain ⟨addr, data, hd⟩ | ⟨addr, hd⟩ := decodeBus_cases T <;> rw [hd] at h <;>
      have ht := (Host.Outcome.next.inj h).symm
    · obtain ⟨hb, hg⟩ | ⟨hb, hg⟩ := guardedWrite_cases (writeReg (selectReg addr) data) s.popInput
      · exact .inr (.inr (.inr (.inl ⟨T, addr, data, hT, hd, hb, ht.trans hg⟩)))
      · exact .inr (.inr (.inl ⟨addr, data, ⟨hb, T, hT, hd⟩, ht.trans hg⟩))
    · exact .inr (.inr (.inr (.inr ⟨T, addr, hT, hd, ht⟩)))

/-! ### DONE (10_state.md R25) -/

@[simp] theorem ksRoundStep_done (i : Fin 16) (s : State) :
    (ksRoundStep i s).done = if i = 15 then true else s.done := by
  simp only [ksRoundStep, Fin.ext_iff]
  have hi := i.isLt
  by_cases h : i.val + 1 < 16
  · rw [dif_pos h, if_neg (by simp; omega)]
  · rw [dif_neg h, if_pos (by simp; omega)]
    rfl

@[simp] theorem acceptCipher_done (m : Mode) (s : State) :
    (acceptCipher m s).done = (!s.ksv && s.done) := by
  cases h : s.ksv
  · simp [acceptCipher_of_invalid m h]
  · simp [acceptCipher_of_valid m h]

/-- KS_ROUND(16) and CI_FINAL set DONE, and no other turn of the engine touches it. -/
theorem engineTurn_done (s : State) :
    (engineTurn s).done = if s.phase = .ksRound 15 ∨ s.phase = .ciFinal then true else s.done := by
  obtain ⟨h, e⟩ | ⟨h, e⟩ | ⟨i, h, e⟩ | ⟨h, e⟩ | ⟨i, h, e⟩ | ⟨h, e⟩ := engineTurn_cases s <;> simp [e, h]

/-- The commands that start an operation when their write is taken in this state: KEYSCHED always, ENCRYPT and DECRYPT
when KSV = 1 (R137, R197, R198). -/
def State.accepts (s : State) : CmdOp → Bool
  | .keysched => true
  | .encrypt | .decrypt => s.ksv
  | .nop | .clrerr => false

@[simp] theorem popInput_accepts (s : State) (op : CmdOp) : s.popInput.accepts op = s.accepts op := by
  cases op <;> rfl

/-- A command touches DONE only by being accepted. -/
theorem performCommand_done (op : CmdOp) (s : State) :
    (performCommand op s).done = (!s.accepts op && s.done) := by
  cases op <;> simp [performCommand, State.accepts]

theorem writeReg_cmd_byte (op : CmdOp) (s : State) : writeReg (selectReg 0x10) op.byte s = performCommand op s :=
  writeCmd_byte op s

/-- A taken command write that is accepted clears DONE. -/
theorem done_of_step_acceptedCommand (op : CmdOp) (hop : s.accepts op = true)
    (hw : s.writeTakenNext 0x10 op.byte) (h : step s = .next t) : t.done = false := by
  rw [step_of_writeTakenNext hw, writeReg_cmd_byte] at h
  rw [← Host.Outcome.next.inj h, performCommand_done, popInput_accepts, hop, Bool.not_true, Bool.false_and]

/-- A taken write leaves DONE as it is, unless it is the write of a command that is accepted. -/
theorem writeReg_done_cases (addr : Addr) (data : Byte) (s : State) :
    (writeReg (selectReg addr) data s).done = s.done ∨
    (addr = 0x10 ∧ ∃ op : CmdOp, data = op.byte ∧ s.accepts op = true ∧
      (writeReg (selectReg addr) data s).done = false) := by
  obtain ⟨j, -, e⟩ | ⟨j, -, e⟩ | ⟨hsel, op, hop, e⟩ | ⟨-, -, e⟩ | e := writeReg_cases (selectReg addr) data s
  · simp [e]
  · simp [e]
  · rw [e, performCommand_done]
    cases hacc : s.accepts op with
    | true =>
      obtain ⟨-, -, haddr⟩ := addr_of_selectReg addr
      exact .inr ⟨haddr hsel, op, hop, hacc, rfl⟩
    | false => exact .inl rfl
  · simp [e]
  · simp [e]

/-- Every way a step can leave DONE: set by the last step of an operation, cleared by reset or by the acceptance of a
command, or unchanged. -/
theorem step_done_cases (h : step s = .next t) :
    (t.done = true ∧ s.engineNext ∧ (s.phase = .ksRound 15 ∨ s.phase = .ciFinal)) ∨
    (t.done = false ∧ (s.resetNext ∨ s.writeTakenNext 0x10 0x01 ∨
      s.ksv = true ∧ (s.writeTakenNext 0x10 0x02 ∨ s.writeTakenNext 0x10 0x03))) ∨
    t.done = s.done := by
  obtain ⟨he, rfl⟩ | ⟨hr, rfl⟩ | ⟨addr, data, hw, rfl⟩ | ⟨T, addr, data, -, -, -, rfl⟩ | ⟨T, addr, -, -, rfl⟩ :=
    step_next_cases h
  · rw [engineTurn_done]
    split
    next hlast => exact .inl ⟨rfl, he, hlast⟩
    next => exact .inr (.inr rfl)
  · exact .inr (.inl ⟨rfl, .inl hr⟩)
  · obtain e | ⟨rfl, op, rfl, hacc, e⟩ := writeReg_done_cases addr data s.popInput
    · exact .inr (.inr e)
    · refine .inr (.inl ⟨e, .inr ?_⟩)
      cases op with
      | keysched => exact .inl hw
      | encrypt => exact .inr ⟨hacc, .inl hw⟩
      | decrypt => exact .inr ⟨hacc, .inr hw⟩
      | nop | clrerr => cases hacc
  · exact .inr (.inr (by simp))
  · exact .inr (.inr (by simp))

theorem done_of_step_lastPhase (he : s.engineNext) (hlast : s.phase = .ksRound 15 ∨ s.phase = .ciFinal)
    (h : step s = .next t) : t.done = true := by
  rw [step_of_engineNext he] at h
  rw [← Host.Outcome.next.inj h, engineTurn_done]
  exact if_pos hlast

/-- DONE is bit 2 of STATUS (44_host_interface.md R230). -/
theorem statusByte_getLsbD_two (s : State) : (statusByte s).getLsbD 2 = s.done := by
  simp only [statusByte, BitVec.getLsbD_cast, BitVec.getLsbD_append]
  simp

/-- Settles O35: the step lemmas on DONE give its five clauses, and STATUS and reset are read off. -/
theorem doneChangesOnlyAsRuled : Obligations.DoneChangesOnlyAsRuled := by
  unfold Obligations.DoneChangesOnlyAsRuled
  refine ⟨fun s t h => ⟨fun hs ht => ?set, fun hs ht => ?cleared, fun he hlast => done_of_step_lastPhase he hlast h,
    fun hw => done_of_step_acceptedCommand .keysched rfl hw h, fun hksv hw => ?accepted⟩,
    statusByte_getLsbD_two, rfl⟩
  case set =>
    obtain ⟨-, hlast⟩ | ⟨ht', -⟩ | e := step_done_cases h
    · exact hlast
    · simp [ht] at ht'
    · simp [hs, ht] at e
  case cleared =>
    obtain ⟨ht', -⟩ | ⟨-, hclear⟩ | e := step_done_cases h
    · simp [ht] at ht'
    · exact hclear
    · simp [hs, ht] at e
  case accepted =>
    obtain hw | hw := hw
    · exact done_of_step_acceptedCommand .encrypt hksv hw h
    · exact done_of_step_acceptedCommand .decrypt hksv hw h

end Sys2Proof.Machine
end

section
/-! Which addresses of the register map ignore writes and read as 0x00 (20_memory.md R51, R57), and the settled
statement of 20_memory.md. -/

namespace Sys2Proof.Machine

variable {s : State} {addr : Addr}

/-! ### The register map (20_memory.md R51) -/

theorem selectReg_of_unmapped (h : 0x13 ≤ addr.toNat ∧ addr.toNat ≤ 0x3F ∨ 0xC0 ≤ addr.toNat) :
    selectReg addr = .unmapped := by
  unfold selectReg
  rw [dif_neg (by omega), dif_neg (by omega), if_neg (by omega), if_neg (by omega), if_neg (by omega)]
  obtain ⟨-, h⟩ | h := h
  · rw [if_pos (by omega)]
  · rw [if_neg (by omega), dif_neg (by omega)]

/-- Every address of the subkey window is the address of one byte of one slot (R56). -/
theorem exists_windowAddr_eq (h : 0x40 ≤ addr.toNat ∧ addr.toNat ≤ 0xBF) : ∃ i j, addr = windowAddr i j := by
  refine ⟨⟨(addr.toNat - 0x40) / 8, by omega⟩, ⟨(addr.toNat - 0x40) % 8, by omega⟩, BitVec.eq_of_toNat_eq ?_⟩
  simp only [windowAddr, BitVec.toNat_ofNat]
  omega

/-- The registers that the host cannot write, and the addresses that name no register (R57). -/
def RegSel.ignoresWrites : RegSel → Bool
  | .status | .errcode | .window _ _ | .unmapped => true
  | .key _ | .data _ | .cmd => false

theorem ignoresWrites_selectReg
    (h : 0x13 ≤ addr.toNat ∧ addr.toNat ≤ 0x3F ∨ 0xC0 ≤ addr.toNat ∨ addr = 0x11 ∨ addr = 0x12 ∨
      0x40 ≤ addr.toNat ∧ addr.toNat ≤ 0xBF) :
    (selectReg addr).ignoresWrites = true := by
  obtain h | h | rfl | rfl | h := h
  · rw [selectReg_of_unmapped (.inl h)]; rfl
  · rw [selectReg_of_unmapped (.inr h)]; rfl
  · exact congrArg RegSel.ignoresWrites selectReg_statusAddr
  · exact congrArg RegSel.ignoresWrites selectReg_errcodeAddr
  · obtain ⟨i, j, rfl⟩ := exists_windowAddr_eq h
    rw [selectReg_windowAddr]; rfl

/-! ### The two transactions -/

theorem writeReg_of_ignoresWrites {sel : RegSel} (data : Byte) (s : State) (h : sel.ignoresWrites = true) :
    writeReg sel data s = s := by
  cases sel with
  | key | data | cmd => cases h
  | status | errcode | window | unmapped => rfl

/-- A write issued while idle is the register write itself (44_host_interface.md R220). -/
theorem exec_wr_of_idle (addr : Addr) (data : Byte) (h : s.busy = false) :
    exec (.wr addr data) s = .next (writeReg (selectReg addr) data s) :=
  congrArg Host.Outcome.next (guardedWrite_of_idle _ h)

/-- A read whose byte the rules fix gives that byte to the host and changes nothing else (R221). -/
theorem exec_rd_of_byte {b : Byte} (h : readReg (selectReg addr) s = .byte b) :
    exec (.rd addr) s = .next { s with reads := s.reads ++ [b] } := by
  rw [exec, execRd, h, deliver]

theorem readReg_selectReg_zero (s : State)
    (h : 0x13 ≤ addr.toNat ∧ addr.toNat ≤ 0x3F ∨ 0xC0 ≤ addr.toNat ∨ addr = 0x10) :
    readReg (selectReg addr) s = .byte 0x00 := by
  obtain h | h | rfl := h
  · rw [selectReg_of_unmapped (.inl h), readReg]
  · rw [selectReg_of_unmapped (.inr h), readReg]
  · exact congrArg (readReg · s) selectReg_cmdAddr

/-- Settles O13: an idle write at a listed address meets a register that ignores writes, and each listed read is of a
register whose byte is 0x00. -/
theorem unmappedAndReadOnlyAddressesAreInert : Obligations.UnmappedAndReadOnlyAddressesAreInert := by
  unfold Obligations.UnmappedAndReadOnlyAddressesAreInert
  refine fun addr data s => ⟨fun hidle haddr => ?write, fun haddr => ?read⟩
  case write => rw [exec_wr_of_idle addr data hidle, writeReg_of_ignoresWrites data s (ignoresWrites_selectReg haddr)]
  case read => exact exec_rd_of_byte (readReg_selectReg_zero s haddr)

end Sys2Proof.Machine
end

section
/-! The fields of a transaction word and the rows of the opcode table (30_encoding.md R70, R78), and the settled
statements of 30_encoding.md. -/

namespace Sys2Proof.Machine

/-! ### Transaction words -/

/-- The transaction word written field by field: the bit W, then ADDR, then WDATA (R70). -/
def busWord (w : BitVec 1) (addr : Addr) (data : Byte) : BusWord := concat (concat w addr : BitVec 9) data

theorem busWord_w (w : BitVec 1) (addr : Addr) (data : Byte) : (busWord w addr data).extractLsb' 16 1 = w := by
  simp only [busWord, concat, BitVec.extractLsb'_cast]
  rw [BitVec.extractLsb'_append_eq_of_le (by decide), BitVec.extractLsb'_cast]
  exact BitVec.extractLsb'_append_eq_left

theorem busWord_addr (w : BitVec 1) (addr : Addr) (data : Byte) : (busWord w addr data).extractLsb' 8 8 = addr := by
  simp only [busWord, concat, BitVec.extractLsb'_cast]
  rw [BitVec.extractLsb'_append_eq_of_le (by decide), BitVec.extractLsb'_cast]
  exact BitVec.extractLsb'_append_eq_right

theorem busWord_data (w : BitVec 1) (addr : Addr) (data : Byte) : (busWord w addr data).extractLsb' 0 8 = data := by
  simp only [busWord, concat, BitVec.extractLsb'_cast, BitVec.extractLsb'_append_eq_right]

theorem decodeBus_of_write {T : BusWord} (h : T.extractLsb' 16 1 = 1#1) :
    decodeBus T = .wr (T.extractLsb' 8 8) (T.extractLsb' 0 8) := if_pos h

theorem decodeBus_of_read {T : BusWord} (h : T.extractLsb' 16 1 ≠ 1#1) : decodeBus T = .rd (T.extractLsb' 8 8) :=
  if_neg h

theorem decodeBus_busWord_one (addr : Addr) (data : Byte) : decodeBus (busWord 1#1 addr data) = .wr addr data := by
  rw [decodeBus_of_write (busWord_w ..), busWord_addr, busWord_data]

theorem decodeBus_busWord_zero (addr : Addr) (data : Byte) : decodeBus (busWord 0#1 addr data) = .rd addr := by
  rw [decodeBus_of_read (by rw [busWord_w]; decide), busWord_addr]

/-- The word written field by field is the three shifted fields joined by OR, as the encoder writes it (R76). -/
theorem busWord_eq_or (w : BitVec 1) (addr : Addr) (data : Byte) :
    busWord w addr data = w.setWidth 17 <<< 16 ||| addr.setWidth 17 <<< 8 ||| data.setWidth 17 :=
  (BitVec.setWidth_eq _).symm.trans BitVec.setWidth_append_append_eq_shiftLeft_setWidth_or

theorem encodeWr_eq_busWord (addr : Addr) (data : Byte) : encodeWr addr data = busWord 1#1 addr data := by
  rw [busWord_eq_or]; rfl

theorem encodeRd_eq_busWord (addr : Addr) : encodeRd addr = busWord 0#1 addr 0x00#8 := by
  simp [busWord_eq_or, encodeRd]

/-- A read gives the host one byte, whether the rules fix it or it is a draw (R70, 44_host_interface.md R221). -/
theorem exec_rd_reads (addr : Addr) (s : State) :
    ∃ b t, exec (.rd addr) s = .next t ∧ t.reads = s.reads ++ [b] := by
  obtain ⟨b, -, e⟩ | ⟨-, e⟩ := deliver_cases (readReg (selectReg addr) s) s
  · exact ⟨b, _, rfl, by rw [e]⟩
  · exact ⟨Config.draw8 s.draws, _, rfl, by rw [e]⟩

/-- Settles O1: a word written field by field has those fields, the encoder's shifts give the same word, and a read
delivers one byte in each of its cases. -/
theorem busWordDecodesToWriteOrRead : Obligations.BusWordDecodesToWriteOrRead := by
  unfold Obligations.BusWordDecodesToWriteOrRead
  exact ⟨fun addr data => ⟨decodeBus_busWord_one addr data, decodeBus_busWord_zero addr data,
      congrArg EncodedWord.bus (encodeWr_eq_busWord addr data), congrArg EncodedWord.bus (encodeRd_eq_busWord addr)⟩,
    decodeBus_busWord_one 0x10 0x01, decodeBus_cases, exec_rd_reads⟩

/-! ### The opcode table -/

/-- The mask of the BUS rows keeps the bit W (R78). -/
theorem and_writeMask_w (T : BusWord) : (T &&& 0x10000).extractLsb' 16 1 = T.extractLsb' 16 1 := by
  rw [BitVec.extractLsb'_and]
  exact BitVec.and_allOnes

theorem decode_cmd_of_eq_byte (op : CmdOp) {c : Byte} (h : c = op.byte) : decode (.cmd c) = .ok op.toInstr := by
  rw [h, decode, decodeCmdByte_byte, Except.map]

/-- A byte that is no opcode's byte is refused by the decoder (R74). -/
theorem exists_decodeCmdByte_eq_error {c : Byte} (h : ∀ op : CmdOp, c ≠ op.byte) :
    ∃ e, decodeCmdByte c = .error e := by
  cases hc : decodeCmdByte c with
  | ok op => exact absurd ((decodeCmdByte_ok_iff c op).mp hc) (h op)
  | error e => exact ⟨e, rfl⟩

theorem decode_cmd_of_error {c : Byte} {e : DecodeError} (h : decodeCmdByte c = .error e) :
    decode (.cmd c) = .error e := by
  rw [decode, h, Except.map]

/-- The write of a refused byte to CMD, taken while idle, records ILLEGAL_CMD (R74, 44_host_interface.md R224). -/
theorem exec_wr_cmd_of_error {c : Byte} {e : DecodeError} {s : State} (h : decodeCmdByte c = .error e)
    (hidle : s.busy = false) : exec (.wr 0x10 c) s = .next (raiseError .illegalCmd s) := by
  have hsel : selectReg 0x10 = .cmd := selectReg_cmdAddr
  rw [exec_wr_of_idle _ _ hidle, hsel, writeReg, writeCmd, h]

/-- Settles O3: the mask of a CMD row keeps the whole byte, so a row matches its opcode's byte only, and the mask of a
BUS row keeps W, on which the decoder branches. -/
theorem opcodeTableRowsDecideDecoding : Obligations.OpcodeTableRowsDecideDecoding := by
  unfold Obligations.OpcodeTableRowsDecideDecoding
  refine ⟨fun c => ?cmd, fun T => ⟨fun h => ?write, fun h => ?read⟩⟩
  case cmd =>
    have hmask : c &&& 0xFF = c := BitVec.and_allOnes
    rw [hmask]
    refine ⟨decode_cmd_of_eq_byte .nop, decode_cmd_of_eq_byte .keysched, decode_cmd_of_eq_byte .encrypt,
      decode_cmd_of_eq_byte .decrypt, decode_cmd_of_eq_byte .clrerr, fun h0 h1 h2 h3 h4 => ?_⟩
    have hop : ∀ op : CmdOp, c ≠ op.byte
      | .nop => h0
      | .keysched => h1
      | .encrypt => h2
      | .decrypt => h3
      | .clrerr => h4
    obtain ⟨e, he⟩ := exists_decodeCmdByte_eq_error hop
    exact ⟨⟨e, decode_cmd_of_error he⟩, fun s hidle => exec_wr_cmd_of_error he hidle⟩
  case write =>
    have hw : T.extractLsb' 16 1 = 1#1 := by rw [← and_writeMask_w, h]; decide
    exact ⟨_, _, congrArg Except.ok (decodeBus_of_write hw)⟩
  case read =>
    have hw : T.extractLsb' 16 1 ≠ 1#1 := by rw [← and_writeMask_w, h]; decide
    exact ⟨_, congrArg Except.ok (decodeBus_of_read hw)⟩

end Sys2Proof.Machine
end

section
/-! The bit accessor and the permutation engine on arguments in range and out of range (40_bit_engines.md R100 to R103),
and the settled statements of 40_bit_engines.md on them. -/

namespace Sys2Proof.Machine

variable {n m : Nat}

/-! ### In range and out of range (R102), and the permutation engine (R103) -/

theorem getBit_of_inRange (v : BitVec n) {i : Nat} (h : 1 ≤ i ∧ i ≤ n) : getBit v i = .ok (bitAt v i) := if_pos h

theorem getBit_of_outOfRange (v : BitVec n) {i : Nat} (h : ¬(1 ≤ i ∧ i ≤ n)) :
    getBit v i = .error .preconditionViolation := if_neg h

theorem putBit_of_inRange (v : BitVec n) {i : Nat} (x : Bool) (h : 1 ≤ i ∧ i ≤ n) :
    putBit v i x = .ok (setBitAt v i x) := if_pos h

theorem putBit_of_outOfRange (v : BitVec n) {i : Nat} (x : Bool) (h : ¬(1 ≤ i ∧ i ≤ n)) :
    putBit v i x = .error .preconditionViolation := if_neg h

theorem permute_of_valid (v : BitVec n) {T : Vector Nat m} (h : tableValid n T = true) :
    permute v T = .ok (gather v T) := if_pos h

theorem permute_of_not_valid (v : BitVec n) {T : Vector Nat m} (h : ¬tableValid n T = true) :
    permute v T = .error .preconditionViolation := if_neg h

theorem tableValid_iff {T : Vector Nat m} : tableValid n T = true ↔ ∀ i : Fin m, 1 ≤ T[i] ∧ T[i] ≤ n := by
  refine ⟨fun hT i => entry_in_range hT i.val i.isLt, fun h => List.all_eq_true.mpr fun e he => ?_⟩
  obtain ⟨i, hi, rfl⟩ := Vector.mem_iff_getElem.mp (Vector.mem_toList_iff.mp he)
  simpa using h ⟨i, hi⟩

/-- Settles O45: a table is valid exactly when all its entries are in range; then the engine gathers the named bits, and
otherwise it faults. -/
theorem permuteReadsTheNamedBits : Obligations.PermuteReadsTheNamedBits := by
  unfold Obligations.PermuteReadsTheNamedBits
  refine fun n m v T => ⟨fun hT => ⟨gather v T, permute_of_valid v (tableValid_iff.mpr hT), fun i => ?bit⟩, ?fault⟩
  case bit =>
    rw [getBit_of_inRange v (hT i), getBit_of_inRange _ ⟨by omega, i.isLt⟩, bitAt_gather v T i.val i.isLt]
    rfl
  case fault =>
    rintro ⟨i, hi⟩
    refine permute_of_not_valid v fun hT => ?_
    have := tableValid_iff.mp hT i
    omega

/-! ### The bit that is read and the bit that is written (R100, R101) -/

/-- `v<i>` is `v[n−i]` (00_scope.md R6). -/
theorem bitAt_eq_getLsbD (v : BitVec n) {i : Nat} (h : 1 ≤ i ∧ i ≤ n) : bitAt v i = v.getLsbD (n - i) := by
  have hlt : i - 1 < n := by omega
  have hidx : n - 1 - (i - 1) = n - i := by omega
  simp only [bitAt, BitVec.getMsbD_eq_getLsbD, hlt, hidx, decide_true, Bool.true_and]

theorem bitAt_or (u v : BitVec n) (i : Nat) : bitAt (u ||| v) i = (bitAt u i || bitAt v i) := BitVec.getMsbD_or

theorem bitAt_and (u v : BitVec n) (i : Nat) : bitAt (u &&& v) i = (bitAt u i && bitAt v i) := BitVec.getMsbD_and

/-- The mask of index `i` has the bit `i` and no other. -/
theorem bitAt_mask {i j : Nat} (hi : 1 ≤ i ∧ i ≤ n) (hj : 1 ≤ j ∧ j ≤ n) :
    bitAt (1#n <<< (n - i)) j = decide (j = i) := by
  have hlt : n - i < n := by omega
  have hidx : n - i = n - j ↔ j = i := by omega
  rw [bitAt_eq_getLsbD _ hj, ← BitVec.twoPow_eq, BitVec.getLsbD_twoPow]
  simp only [hlt, hidx, decide_true, Bool.true_and]

theorem bitAt_setBitAt (v : BitVec n) {i j : Nat} (x : Bool) (hi : 1 ≤ i ∧ i ≤ n) (hj : 1 ≤ j ∧ j ≤ n) :
    bitAt (setBitAt v i x) j = if j = i then x else bitAt v j := by
  cases x with
  | true =>
    simp only [setBitAt, if_true, bitAt_or, bitAt_mask hi hj]
    split <;> simp [*]
  | false =>
    simp only [setBitAt, Bool.false_eq_true, if_false, bitAt_and, bitAt_not _ j hj, bitAt_mask hi hj]
    split <;> simp [*]

/-- Settles O46: the written value has bit `x` at index `i` and the old bits elsewhere; at an index out of range both
reads fault. -/
theorem bitAccessorRoundTrip : Obligations.BitAccessorRoundTrip := by
  unfold Obligations.BitAccessorRoundTrip
  intro n v i x h1 hn
  have hi : 1 ≤ i ∧ i ≤ n := ⟨h1, hn⟩
  refine ⟨setBitAt v i x, putBit_of_inRange v x hi, ?_, fun j hne => ?_⟩
  · rw [getBit_of_inRange _ hi, bitAt_setBitAt v x hi hi, if_pos rfl]
  · by_cases hj : 1 ≤ j ∧ j ≤ n
    · rw [getBit_of_inRange _ hj, getBit_of_inRange _ hj, bitAt_setBitAt v x hi hj, if_neg hne]
    · rw [getBit_of_outOfRange _ hj, getBit_of_outOfRange _ hj]

/-! ### Values held as bytes -/

/-- Bit `r` (from 0) of byte `k` is bit `8k + r` of the value, both counted from the most significant (20_memory.md
R52). -/
theorem bitAt_byteOf (v : BitVec (8 * m)) {k r : Nat} (hk : k < m) (hr : r < 8) :
    bitAt (byteOf v k) (r + 1) = bitAt v (8 * k + r + 1) := by
  rw [byteOf, bitAt_slice v _ _ _ (by omega) (by omega) hr, Nat.add_right_comm]

/-- The bit of a byte, read by a shift and a mask (R100). -/
theorem bitAt_byte (b : Byte) {r : Nat} (hr : r < 8) : bitAt b (r + 1) = (b >>> (7 - r) &&& 1#8 == 1#8) := by
  rw [bitAt_eq_getLsbD b (by omega), BitVec.and_one_eq_setWidth_ofBool_getLsbD, BitVec.getLsbD_ushiftRight,
    show 8 - (r + 1) = 7 - r + 0 by omega]
  cases b.getLsbD (7 - r + 0) <;> rfl

/-- The bit of a byte, written by a mask (R101). -/
theorem setBitAt_byte (b : Byte) (r : Nat) (x : Bool) :
    setBitAt b (r + 1) x = if x then b ||| 1#8 <<< (7 - r) else b &&& ~~~(1#8 <<< (7 - r)) := by
  rw [setBitAt, show 8 - (r + 1) = 7 - r by omega]

/-- Writing bit `i` of a value writes the bit `(i−1) mod 8` of its byte `(i−1) div 8`, and no other byte (R101). -/
theorem byteOf_setBitAt (v : BitVec (8 * m)) {i k : Nat} (x : Bool) (hi : 1 ≤ i ∧ i ≤ 8 * m) (hk : k < m) :
    byteOf (setBitAt v i x) k =
      if k = (i - 1) / 8 then setBitAt (byteOf v k) ((i - 1) % 8 + 1) x else byteOf v k := by
  refine eq_of_bitAt_eq fun r hr => ?_
  rw [bitAt_byteOf _ hk hr, bitAt_setBitAt v x hi (by omega)]
  split
  next h =>
    have hk' : k = (i - 1) / 8 := by omega
    have hr' : r + 1 = (i - 1) % 8 + 1 := by omega
    rw [if_pos hk', bitAt_setBitAt _ x (by omega) (by omega), if_pos hr']
  next h =>
    rw [← bitAt_byteOf v hk hr]
    split
    next hk' => rw [bitAt_setBitAt _ x (by omega) (by omega), if_neg (by omega)]
    next => rfl

theorem getBit_eq_byte_bit (v : BitVec (8 * m)) {i : Nat} (hi : 1 ≤ i ∧ i ≤ 8 * m) :
    getBit v i = .ok ((byteOf v ((i - 1) / 8) >>> (7 - (i - 1) % 8) &&& 1#8) == 1#8) := by
  have hr : (i - 1) % 8 < 8 := by omega
  rw [getBit_of_inRange v hi, ← bitAt_byte _ hr, bitAt_byteOf v (by omega) hr,
    show 8 * ((i - 1) / 8) + (i - 1) % 8 + 1 = i by omega]

/-- Settles O47: the two accessors bit by bit on any value, their fault, and the same bits named by byte and position. -/
theorem bitAccessorOnAnyValueAndOnBytes : Obligations.BitAccessorOnAnyValueAndOnBytes := by
  unfold Obligations.BitAccessorOnAnyValueAndOnBytes
  refine ⟨fun n v i x => ⟨fun h1 hn => ?value, fun hout => ?fault⟩, fun m v i x h1 hn => ?bytes⟩
  case value =>
    have hi : 1 ≤ i ∧ i ≤ n := ⟨h1, hn⟩
    refine ⟨by rw [getBit_of_inRange v hi, bitAt_eq_getLsbD v hi],
      setBitAt v i x, putBit_of_inRange v x hi, ?_, fun j hj1 hjn hne => ?_⟩
    · rw [← bitAt_eq_getLsbD _ hi, bitAt_setBitAt v x hi hi, if_pos rfl]
    · have hj : 1 ≤ j ∧ j ≤ n := ⟨hj1, hjn⟩
      rw [← bitAt_eq_getLsbD _ hj, ← bitAt_eq_getLsbD _ hj, bitAt_setBitAt v x hi hj, if_neg hne]
  case fault => exact ⟨getBit_of_outOfRange v (by omega), putBit_of_outOfRange v x (by omega)⟩
  case bytes =>
    have hi : 1 ≤ i ∧ i ≤ 8 * m := ⟨h1, hn⟩
    refine ⟨getBit_eq_byte_bit v hi, setBitAt v i x, putBit_of_inRange v x hi, ?_, fun k hk hne => ?_⟩
    · rw [byteOf_setBitAt v x hi (by omega), if_pos rfl, setBitAt_byte]
    · rw [byteOf_setBitAt v x hi hk, if_neg hne]

end Sys2Proof.Machine
end

section
/-! The key schedule round by round, and the internal steps of KEYSCHED under an engine event (41_key_scheduler.md R135,
R138 to R140), with the settled statements of 41_key_scheduler.md. -/

namespace Sys2Proof.Machine

variable {s : State} {rest : List Input}

/-! ### The internal steps (R138 to R140) -/

/-- A listed engine event is used up, and the engine takes its turn (70_reset_and_hazards.md R293). -/
theorem step_of_engine_event (h : s.inputs = .engine :: rest) :
    step s = .next { engineTurn s with inputs := rest } := by
  rw [step_of_engineNext (.inr ⟨rest, h⟩), State.popInput, h, List.tail_cons, engineTurn_setInputs]

theorem engineTurn_of_ksSplit (h : s.phase = .ksSplit) : engineTurn s = ksSplitStep s := by
  simp only [engineTurn, h]

theorem engineTurn_of_ksRound {i : Fin 16} (h : s.phase = .ksRound i) : engineTurn s = ksRoundStep i s := by
  simp only [engineTurn, h]

/-- The halves and the subkey file after round `i+1`: both halves are rotated, and the subkey is taken from the rotated
halves (R139). -/
def State.rotateAndStore (i : Fin 16) (s : State) : State :=
  { s with c := rotl s.c shiftSchedule[i], d := rotl s.d shiftSchedule[i],
           ks := s.ks.set i (compress (rotl s.c shiftSchedule[i]) (rotl s.d shiftSchedule[i])) }

/-- Before round 16 the scheduler goes on to the next round. -/
theorem ksRoundStep_of_lt {i : Fin 16} (s : State) (h : i.val + 1 < 16) :
    ksRoundStep i s = { s.rotateAndStore i with phase := .ksRound ⟨i.val + 1, h⟩ } := dif_pos h

/-- Round 16 completes the command (R140). -/
theorem ksRoundStep_of_last {i : Fin 16} (s : State) (h : ¬i.val + 1 < 16) :
    ksRoundStep i s = completeKeysched (s.rotateAndStore i) := dif_neg h

/-- Round `i+1` writes its own entry of the subkey file, from the halves it leaves behind (R139). -/
theorem ksRoundStep_ks_self (i : Fin 16) (s : State) :
    (ksRoundStep i s).ks[i] = compress (ksRoundStep i s).c (ksRoundStep i s).d := by
  simp only [ksRoundStep_ks, ksRoundStep_c, ksRoundStep_d]
  exact Vector.getElem_set_self i.isLt

theorem ksRoundStep_ks_ne {i k : Fin 16} (s : State) (h : k ≠ i) : (ksRoundStep i s).ks[k] = s.ks[k] := by
  rw [ksRoundStep_ks]
  exact Vector.getElem_set_ne i.isLt k.isLt fun e => h (Fin.ext e.symm)

/-- A round touches the halves, the subkey file, the phase, KSV and DONE at most. -/
theorem ksRoundStep_frame (i : Fin 16) (s : State) :
    ksRoundStep i s =
      { s with c := (ksRoundStep i s).c, d := (ksRoundStep i s).d, ks := (ksRoundStep i s).ks,
               phase := (ksRoundStep i s).phase, ksv := (ksRoundStep i s).ksv, done := (ksRoundStep i s).done } := by
  by_cases h : i.val + 1 < 16
  · rw [ksRoundStep_of_lt s h]; rfl
  · rw [ksRoundStep_of_last s h]; rfl

/-- Settles O27: an engine event runs the step of the phase; a round is read off from its two equations, one before
round 16 and one for it. -/
theorem keyScheduleSteps : Obligations.KeyScheduleSteps := by
  unfold Obligations.KeyScheduleSteps
  intro s rest hin
  refine ⟨fun hp => ?split, fun i hp => ?round⟩
  case split => rw [step_of_engine_event hin, engineTurn_of_ksSplit hp, ksSplitStep]
  case round =>
    refine ⟨{ ksRoundStep i s with inputs := rest }, by rw [step_of_engine_event hin, engineTurn_of_ksRound hp],
      ksRoundStep_c s i, ksRoundStep_d s i, ksRoundStep_ks_self i s, fun k => ksRoundStep_ks_ne s,
      fun h => ?next, fun h => ?last, congrArg (fun t : State => { t with inputs := rest }) (ksRoundStep_frame i s)⟩
    case next =>
      rw [ksRoundStep_of_lt s h]
      exact ⟨rfl, rfl, rfl⟩
    case last =>
      rw [ksRoundStep_of_last s (by omega)]
      exact ⟨rfl, rfl, rfl, rfl⟩

/-! ### The schedule as a function (R135) -/

theorem getElem_keySchedule (key : Block64) (i : Fin 16) : (keySchedule key)[i] = subkeyOf key i := by
  have hofFn : keySchedule key = Vector.ofFn (subkeyOf key) := rfl
  rw [hofFn]
  exact Vector.getElem_ofFn i.isLt

/-- Round `i+1` rotates both halves by its shift. -/
theorem keyHalves_succ (key : Block64) (i : Fin 16) :
    keyHalves key (i.val + 1) =
      (rotl (keyHalves key i.val).1 shiftSchedule[i], rotl (keyHalves key i.val).2 shiftSchedule[i]) :=
  dif_pos i.isLt

theorem shiftSchedule_toList :
    shiftSchedule.toList = [1, 1, 2, 2, 2, 2, 2, 2, 1, 2, 2, 2, 2, 2, 2, 1] := rfl

theorem shiftSchedule_eq_of_getElem? {i : Fin 16} {k : Nat}
    (h : [1, 1, 2, 2, 2, 2, 2, 2, 1, 2, 2, 2, 2, 2, 2, 1][i.val]? = some k) : shiftSchedule[i] = k := by
  rw [← shiftSchedule_toList, Vector.getElem?_toList, Vector.getElem?_eq_getElem i.isLt] at h
  exact Option.some.inj h

/-- Settles O52: the halves are the model's `keyHalves`, whose recursion is the loop, with the shifts written out. -/
theorem keyScheduleFollowsTheLoop : Obligations.KeyScheduleFollowsTheLoop := by
  unfold Obligations.KeyScheduleFollowsTheLoop
  refine ⟨keyHalves, fun key => ⟨rfl, fun i k hk => ⟨?_, getElem_keySchedule key i⟩⟩⟩
  rw [keyHalves_succ, shiftSchedule_eq_of_getElem? hk]

end Sys2Proof.Machine
end

section
/-! The S-box layer of the round function: the lookup of one segment and the place of each 4-bit result
(42_round_function.md R163, R164, R173), and the settled statement on them. -/

namespace Sys2Proof.Machine

variable {n m : Nat}

/-! ### Slices of a concatenation (40_bit_engines.md R107) -/

theorem slice_cast {k : Nat} (v : BitVec n) (h : n = k) (a w : Nat) : slice (v.cast h) a w = slice v a w := by
  subst h
  rfl

theorem slice_all (v : BitVec n) : slice v 1 n = v := by
  rw [slice, Nat.add_sub_cancel, Nat.sub_self, BitVec.extractLsb'_eq_self]

theorem slice_append_left (u : BitVec m) (v : BitVec n) {a w : Nat} (h : a + w ≤ m + 1) :
    slice (u ++ v) a w = slice u a w := by
  have hstart : m + n + 1 - a - w - n = m + 1 - a - w := by omega
  rw [slice, BitVec.extractLsb'_append_eq_of_le (by omega), hstart, slice]

theorem slice_append_right (u : BitVec m) (v : BitVec n) {a : Nat} (h : a = m + 1) : slice (u ++ v) a n = v := by
  have hstart : m + n + 1 - a - n = 0 := by omega
  rw [slice, hstart, BitVec.extractLsb'_append_eq_right]

/-! ### Row, column and lookup (R164) -/

theorem sboxRow_le (seg : BitVec 6) : sboxRow seg ≤ 3 := by
  have h1 := Bool.toNat_le (bitAt seg 1)
  have h6 := Bool.toNat_le (bitAt seg 6)
  unfold sboxRow
  omega

theorem sboxCol_le (seg : BitVec 6) : sboxCol seg ≤ 15 := by
  have h2 := Bool.toNat_le (bitAt seg 2)
  have h3 := Bool.toNat_le (bitAt seg 3)
  have h4 := Bool.toNat_le (bitAt seg 4)
  have h5 := Bool.toNat_le (bitAt seg 5)
  unfold sboxCol
  omega

theorem sbox_getElem?_eq_substitute (seg : BitVec 6) (b : Fin 8) :
    (sbox b)[16 * sboxRow seg + sboxCol seg]? = some (substitute seg b) :=
  Vector.getElem?_eq_getElem (sboxIndex_lt seg)

/-! ### The place of each result (R173) -/

/-- Nibble `b` of the layer is the result of box `b`: the results after it are cut off from the right, and it is then
the last one of what is left; box 0's is all that is left. -/
theorem slice_sboxLayer (x : Subkey) (b : Fin 8) :
    slice (sboxLayer x) (4 * b.val + 1) 4 = substitute (segment x b) b := by
  rw [sboxLayer, slice_cast]
  fin_cases b
  · simp (disch := decide) only [slice_append_left]
    exact slice_all _
  all_goals
    simp (disch := decide) only [slice_append_left]
    exact slice_append_right _ _ rfl

/-- Settles O50: the row and column written out are `sboxRow` and `sboxCol`, whose lookup is `substitute`; each nibble
is read off from the concatenation. -/
theorem sboxLookupAndAssembly : Obligations.SboxLookupAndAssembly := by
  unfold Obligations.SboxLookupAndAssembly
  refine ⟨fun b seg row col hrow hcol => ?lookup, slice_sboxLayer⟩
  obtain rfl : row = sboxRow seg := hrow
  obtain rfl : col = sboxCol seg := hcol
  exact ⟨sboxRow_le seg, sboxCol_le seg, sbox_getElem?_eq_substitute seg b⟩

end Sys2Proof.Machine
end

section
/-! The internal steps of ENCRYPT and DECRYPT under an engine event (43_block_cipher.md R199 to R201), with the settled
statements of 43_block_cipher.md. -/

namespace Sys2Proof.Machine

variable {s : State} {i : Fin 16}

/-! ### The step of each phase (70_reset_and_hazards.md R293) -/

theorem engineTurn_of_ciInit (h : s.phase = .ciInit) : engineTurn s = ciInitStep s := by
  simp only [engineTurn, h]

theorem engineTurn_of_ciRound (h : s.phase = .ciRound i) : engineTurn s = ciRoundStep i s := by
  simp only [engineTurn, h]

theorem engineTurn_of_ciFinal (h : s.phase = .ciFinal) : engineTurn s = ciFinalStep s := by
  simp only [engineTurn, h]

/-! ### One round (R194, R200) -/

/-- MODE alone fixes the entry of the subkey file: entry `i` to encrypt, entry `15 − i` to decrypt (R194). -/
theorem roundKey_eq_getElem {mode : Mode} {j : Fin 16} (ks : SubkeyFile) (henc : mode = .enc → j = i)
    (hdec : mode = .dec → j.val = 15 - i.val) : roundKey ks mode i = ks[j] := by
  cases mode with
  | enc =>
    rw [henc rfl]
    rfl
  | dec =>
    have hrev : j = i.rev := Fin.ext (by rw [hdec rfl, Fin.val_rev]; omega)
    rw [hrev]
    rfl

/-- Before round 16 the cipher goes on to the next round. -/
theorem ciRoundStep_phase_of_lt (s : State) (h : i.val + 1 < 16) :
    (ciRoundStep i s).phase = .ciRound ⟨i.val + 1, h⟩ := dif_pos h

/-- Round 16 is followed by the final step. -/
theorem ciRoundStep_phase_of_last (s : State) (h : ¬i.val + 1 < 16) : (ciRoundStep i s).phase = .ciFinal := dif_neg h

/-- A round touches the half-blocks and the phase at most (R200). -/
theorem ciRoundStep_frame (i : Fin 16) (s : State) :
    ciRoundStep i s =
      { s with l := (ciRoundStep i s).l, r := (ciRoundStep i s).r, phase := (ciRoundStep i s).phase } := rfl

/-- Settles O29: an engine event runs the round of the phase; its halves are the model's Feistel round, whose subkey
is the one that MODE fixes. -/
theorem ciRoundStepTakesOneFeistelRound : Obligations.CiRoundStepTakesOneFeistelRound := by
  unfold Obligations.CiRoundStepTakesOneFeistelRound
  intro s rest i j hin hp henc hdec
  refine ⟨(ciRoundStep i s).phase, ?_, ciRoundStep_phase_of_lt s, fun h => ciRoundStep_phase_of_last s (by omega)⟩
  rw [step_of_engine_event hin, engineTurn_of_ciRound hp, ciRoundStep_frame, ciRoundStep_l, ciRoundStep_r,
    roundKey_eq_getElem s.ks henc hdec]

/-- Settles O28: an engine event runs the first or the last step of the cipher, whose halves and block are slices of IP
and FP of the exchanged halves. -/
theorem cipherInitialAndFinalSteps : Obligations.CipherInitialAndFinalSteps := by
  unfold Obligations.CipherInitialAndFinalSteps
  intro s rest hin
  refine ⟨fun hp => ?init, fun hp => ?final⟩
  case init => rw [step_of_engine_event hin, engineTurn_of_ciInit hp, ciInitStep, initialHalves]
  case final =>
    refine ⟨{ ciFinalStep s with inputs := rest }, by rw [step_of_engine_event hin, engineTurn_of_ciFinal hp], ?_, rfl⟩
    rw [ciFinalStep, finalBlock]

end Sys2Proof.Machine
end

section
/-! The host transactions WR and RD and the command writes (44_host_interface.md R220 to R232), and the settled
statements of 44_host_interface.md on them. -/

namespace Sys2Proof.Machine

variable {s : State} {addr : Addr} {data : Byte}

/-! ### Writes (R220, R222, R223) -/

/-- The rules write the address of KEY byte `j` as 0x00 + j (20_memory.md R51). -/
theorem keyAddr_eq (j : Fin 8) : keyAddr j = BitVec.ofNat 8 (0x00 + j.val) := by rw [keyAddr, Nat.zero_add]

theorem eq_keyAddr_of_toNat_eq {j : Fin 8} (h : addr.toNat = 0x00 + j.val) : addr = keyAddr j := by
  rw [keyAddr_eq, ← h, BitVec.ofNat_toNat, BitVec.setWidth_eq]

theorem eq_dataAddr_of_toNat_eq {j : Fin 8} (h : addr.toNat = 0x08 + j.val) : addr = dataAddr j := by
  rw [dataAddr, ← h, BitVec.ofNat_toNat, BitVec.setWidth_eq]

theorem exec_wr_of_busy (addr : Addr) (data : Byte) (h : s.busy = true) :
    exec (.wr addr data) s = .next (raiseError .busyWrite s) :=
  congrArg Host.Outcome.next (guardedWrite_of_busy _ h)

theorem exec_wr_keyAddr (j : Fin 8) (data : Byte) (h : s.busy = false) :
    exec (.wr (keyAddr j) data) s = .next (writeKeyByte j data s) := by
  rw [exec_wr_of_idle _ _ h, selectReg_keyAddr, writeReg]

theorem exec_wr_dataAddr (j : Fin 8) (data : Byte) (h : s.busy = false) :
    exec (.wr (dataAddr j) data) s = .next (writeDataByte j data s) := by
  rw [exec_wr_of_idle _ _ h, selectReg_dataAddr, writeReg]

theorem exec_wr_cmdAddr (c : Byte) (h : s.busy = false) : exec (.wr cmdAddr c) s = .next (writeCmd c s) := by
  rw [exec_wr_of_idle _ _ h, selectReg_cmdAddr, writeReg]

/-- Beyond CMD the register map holds nothing that a host can write (20_memory.md R51, R57). -/
theorem ignoresWrites_of_ge_statusAddr (h : 0x11 ≤ addr.toNat) : (selectReg addr).ignoresWrites = true :=
  ignoresWrites_selectReg (by bv_omega)

/-- Settles O9: the encoder joins the fields by OR, the guard refuses the write while busy, and while idle the register
map sends it to the register that the address names. -/
theorem writeRefusedWhileBusyElseDispatched : Obligations.WriteRefusedWhileBusyElseDispatched := by
  unfold Obligations.WriteRefusedWhileBusyElseDispatched
  refine fun addr data s => ⟨rfl, fun hbusy => ⟨exec_wr_of_busy addr data hbusy, raiseError_eq .busyWrite s⟩,
    fun hidle => ⟨fun j hj => ?key, fun j hj => ?data, fun hcmd => ?cmd, fun hge => ?beyond⟩, ?atReset⟩
  case key => rw [eq_keyAddr_of_toNat_eq hj, exec_wr_keyAddr j data hidle]
  case data => rw [eq_dataAddr_of_toNat_eq hj, exec_wr_dataAddr j data hidle]
  case cmd =>
    obtain rfl : addr = cmdAddr := BitVec.eq_of_toNat_eq hcmd
    exact exec_wr_cmdAddr data hidle
  case beyond =>
    rw [exec_wr_of_idle addr data hidle, writeReg_of_ignoresWrites data s (ignoresWrites_of_ge_statusAddr hge)]
  case atReset =>
    exact ⟨writeKeyByte 0 0x13 State.reset, exec_wr_keyAddr 0 0x13 rfl, byteOf_setByte 0 0 0 0x13, rfl⟩

/-- Settles O11: the write sets one byte of DATA in place. -/
theorem dataByteWriteChangesOneByte : Obligations.DataByteWriteChangesOneByte := by
  unfold Obligations.DataByteWriteChangesOneByte
  refine fun j data s hidle => ⟨writeDataByte j data s, exec_wr_dataAddr j data hidle, ?_, fun k hk => ?_, rfl⟩
  · rw [writeDataByte_data, byteOf_setByte, if_pos rfl]
  · rw [writeDataByte_data, byteOf_setByte, if_neg hk]

/-! ### Commands (R224 to R226) -/

/-- A command is a guarded write, the same in both its forms (30_encoding.md R77). -/
theorem exec_toInstr (op : CmdOp) (s : State) : exec op.toInstr s = .next (guardedWrite (performCommand op) s) := by
  cases op <;> rfl

theorem exec_toInstr_of_idle (op : CmdOp) (h : s.busy = false) : exec op.toInstr s = .next (performCommand op s) := by
  rw [exec_toInstr, guardedWrite_of_idle _ h]

theorem exec_toInstr_of_busy (op : CmdOp) (h : s.busy = true) :
    exec op.toInstr s = .next (raiseError .busyWrite s) := by
  rw [exec_toInstr, guardedWrite_of_busy _ h]

/-- The write of a command's byte to CMD is that command, in every state. -/
theorem exec_wr_cmd_byte (op : CmdOp) (s : State) : exec (.wr 0x10 op.byte) s = exec op.toInstr s := by
  have heffect : writeReg (selectReg 0x10) op.byte = performCommand op := funext (writeReg_cmd_byte op)
  rw [exec_toInstr, exec, execWr, heffect]

/-- A byte with RSV = 0 and the code of an opcode in OP is that opcode's byte (30_encoding.md R71, R72). -/
theorem eq_byte_of_fields (op : CmdOp) {c : Byte} (hrsv : c.extractLsb' 4 4 = 0#4)
    (hop : c.extractLsb' 0 4 = op.byte.extractLsb' 0 4) : c = op.byte := by
  rw [← decodeCmdByte_ok_iff, decodeCmdByte, hop, if_neg (not_not.mpr hrsv)]
  cases op <;> rfl

theorem exec_wr_cmd_of_fields (op : CmdOp) {c : Byte} (s : State) (hrsv : c.extractLsb' 4 4 = 0#4)
    (hop : c.extractLsb' 0 4 = op.byte.extractLsb' 0 4) : exec (.wr 0x10 c) s = exec op.toInstr s := by
  rw [eq_byte_of_fields op hrsv hop, exec_wr_cmd_byte]

/-- Settles O12: a reserved byte is refused by the decoder, the others are their opcodes' bytes, and CMD holds nothing
that a read could return. -/
theorem cmdWriteRunsTheNamedCommand : Obligations.CmdWriteRunsTheNamedCommand := by
  unfold Obligations.CmdWriteRunsTheNamedCommand
  refine fun c s hidle => ⟨fun hreserved => ?reserved, exec_wr_cmd_of_fields .nop s,
    exec_wr_cmd_of_fields .keysched s, exec_wr_cmd_of_fields .encrypt s, exec_wr_cmd_of_fields .decrypt s,
    exec_wr_cmd_of_fields .clrerr s, fun t _ => exec_rd_of_byte (readReg_selectReg_zero t (.inr (.inr rfl)))⟩
  case reserved =>
    obtain ⟨e, he⟩ := (decodeCmdByte_error_iff c).mpr hreserved
    exact exec_wr_cmd_of_error he hidle

/-- Settles O15: NOP is the guarded write whose effect is none. -/
theorem nopChangesNothing : Obligations.NopChangesNothing := by
  unfold Obligations.NopChangesNothing
  exact fun s => ⟨exec_toInstr_of_idle .nop, exec_toInstr_of_busy .nop, rfl, exec_wr_cmd_byte .nop s⟩

/-! ### STATUS and ERRCODE (R230, R231) -/

/-- Bit by bit, from the least significant, STATUS is BUSY, KSV, DONE, ERR and then zeros. -/
theorem getLsbD_statusByte (s : State) (i : Nat) :
    (statusByte s).getLsbD i = [s.busy, s.ksv, s.done, s.err].getD i false := by
  simp only [statusByte, BitVec.getLsbD_cast, BitVec.getLsbD_append]
  match i with
  | 0 | 1 | 2 | 3 => simp
  | i + 4 => simp

/-- The high nibble of STATUS is zero. -/
theorem slice_statusByte_high (s : State) : slice (statusByte s) 1 4 = 0#4 := by
  simp (disch := decide) only [statusByte, slice_cast, slice_append_left, slice_all]

/-- STATUS once its four flags are known. -/
theorem statusByte_of_flags {err done ksv busy : Bool} (herr : s.err = err) (hdone : s.done = done)
    (hksv : s.ksv = ksv) (hbusy : s.busy = busy) :
    statusByte s = (0#4 ++ BitVec.ofBool err ++ BitVec.ofBool done ++ BitVec.ofBool ksv ++ BitVec.ofBool busy) := by
  rw [statusByte, herr, hdone, hksv, hbusy]
  rfl

theorem errcodeByte_of_errcode {e : ErrCode} (h : s.errcode = e) : errcodeByte s = e.bits.setWidth 8 := by
  rw [errcodeByte, h]

/-- Settles O21: the two reads return the views, whose bits are the flags and the code. -/
theorem statusAndErrcodeReads : Obligations.StatusAndErrcodeReads := by
  unfold Obligations.StatusAndErrcodeReads
  refine fun s => ⟨⟨statusByte s, ?status, getLsbD_statusByte s 0, getLsbD_statusByte s 1, getLsbD_statusByte s 2,
    getLsbD_statusByte s 3, slice_statusByte_high s,
    fun hbusy hksv hdone herr => statusByte_of_flags herr hdone hksv hbusy⟩,
    errcodeByte s, ?errcode, errcodeByte_of_errcode, errcodeByte_of_errcode, errcodeByte_of_errcode,
    errcodeByte_of_errcode⟩
  case status => exact exec_rd_of_byte (congrArg (readReg · s) selectReg_statusAddr)
  case errcode => exact exec_rd_of_byte (congrArg (readReg · s) selectReg_errcodeAddr)

theorem exec_clrerr_of_idle (h : s.busy = false) : exec .clrerr s = .next (clearError s) :=
  exec_toInstr_of_idle .clrerr h

/-- The example of R226: STATUS 0x08 says that nothing runs and that ERR is the only flag set. -/
theorem statusByte_clearError (h : statusByte s = 0x08) : statusByte (clearError s) = 0x00 := by
  have hbits (i : Nat) : [s.busy, s.ksv, s.done, s.err].getD i false = (0x08#8).getLsbD i := by
    rw [← getLsbD_statusByte, h]; rfl
  exact statusByte_of_flags (clearError_err s) (hbits 2) (hbits 1) (hbits 0)

/-- Settles O16: CLRERR is the guarded write that clears the error; while busy the guard records BUSY_WRITE, which an
error already recorded hides. -/
theorem clrerrClearsTheError : Obligations.ClrerrClearsTheError := by
  unfold Obligations.ClrerrClearsTheError
  refine fun s => ⟨exec_clrerr_of_idle, fun hbusy hclear => ?first, fun hbusy hset => ?hidden, rfl,
    exec_wr_cmd_byte .clrerr s, fun t hstatus _ ht => ?fromStatus08⟩
  case first => exact (exec_toInstr_of_busy .clrerr hbusy).trans (by rw [raiseError_of_clear _ hclear])
  case hidden => exact (exec_toInstr_of_busy .clrerr hbusy).trans (by rw [raiseError_of_set _ hset])
  case fromStatus08 =>
    have hidle : s.busy = false := (getLsbD_statusByte s 0).symm.trans (by rw [hstatus]; rfl)
    rw [exec_clrerr_of_idle hidle] at ht
    obtain rfl := Host.Outcome.next.inj ht
    exact ⟨statusByte_clearError hstatus, rfl⟩

/-! ### Reads (R228, R229, R232) -/

/-- A read whose byte no rule fixes gives the host the next free value (R221, 00_scope.md R8). -/
theorem exec_rd_of_draw (h : readReg (selectReg addr) s = .draw) :
    exec (.rd addr) s =
      .next { s with reads := s.reads ++ [Config.draw8 s.draws], draws := s.draws + 1 } := by
  rw [exec, execRd, h, deliver]

theorem readReg_keyAddr (j : Fin 8) (s : State) :
    readReg (selectReg (keyAddr j)) s = .byte (byteOf s.key j.val) := by
  rw [selectReg_keyAddr, readReg]

theorem readReg_dataAddr_of_idle (j : Fin 8) (h : s.busy = false) :
    readReg (selectReg (dataAddr j)) s = .byte (byteOf s.data j.val) := by
  rw [selectReg_dataAddr, readReg, h, if_neg Bool.false_ne_true]

theorem readReg_dataAddr_of_busy (j : Fin 8) (h : s.busy = true) : readReg (selectReg (dataAddr j)) s = .draw := by
  rw [selectReg_dataAddr, readReg, h, if_pos rfl]

/-- Settles O20: KEY is always readable, and DATA only while no operation uses it. -/
theorem keyAndDataReads : Obligations.KeyAndDataReads := by
  unfold Obligations.KeyAndDataReads
  intro j s
  rw [← keyAddr_eq]
  exact ⟨exec_rd_of_byte (readReg_keyAddr j s), fun hidle => exec_rd_of_byte (readReg_dataAddr_of_idle j hidle),
    fun hbusy => exec_rd_of_draw (readReg_dataAddr_of_busy j hbusy)⟩

theorem readReg_windowAddr_padding (i : Fin 16) {j : Fin 8} (s : State) (hj : 6 ≤ j.val) :
    readReg (selectReg (windowAddr i j)) s = .byte 0x00 := by
  rw [selectReg_windowAddr, readReg, if_pos hj]

theorem readReg_windowAddr_valid (i : Fin 16) {j : Fin 8} (hj : ¬6 ≤ j.val) (hidle : s.busy = false)
    (hksv : s.ksv = true) : readReg (selectReg (windowAddr i j)) s = .byte (byteOf s.ks[i] j.val) := by
  rw [selectReg_windowAddr, readReg, if_neg hj, hidle, hksv]
  rfl

/-- While the subkeys are being computed, or are not KEY's, the window shows nothing of them. -/
theorem readReg_windowAddr_invalid (i : Fin 16) {j : Fin 8} (hj : ¬6 ≤ j.val) (h : ¬(s.busy = false ∧ s.ksv = true)) :
    readReg (selectReg (windowAddr i j)) s = .draw := by
  rw [selectReg_windowAddr, readReg, if_neg hj, if_neg]
  rwa [Bool.and_eq_true, Bool.not_eq_true']

/-- Settles O22: the three branches of the rule are the window's three reads. -/
theorem subkeyWindowRead : Obligations.SubkeyWindowRead := by
  unfold Obligations.SubkeyWindowRead
  intro i j s
  split_ifs with hj h
  · exact exec_rd_of_byte (readReg_windowAddr_padding i s hj)
  · obtain ⟨hidle, hksv⟩ := h
    exact exec_rd_of_byte (readReg_windowAddr_valid i hj hidle hksv)
  · exact exec_rd_of_draw (readReg_windowAddr_invalid i hj h)

/-- A cipher command taken while `KSV = 0` is refused with NO_SUBKEYS (43_block_cipher.md R197, R198). -/
theorem exec_cipher_of_invalid (m : Mode) (hidle : s.busy = false) (h : s.ksv = false) :
    exec m.command.toInstr s = .next (raiseError .noSubkeys s) := by
  rw [exec_toInstr_of_idle _ hidle]
  cases m <;> exact congrArg Host.Outcome.next (acceptCipher_of_invalid _ h)

/-- Settles O10: the write sets one byte of KEY in place and clears KSV, and with `KSV = 0` the window is a draw and the
cipher commands are refused. -/
theorem keyByteWriteClearsSubkeysValid : Obligations.KeyByteWriteClearsSubkeysValid := by
  unfold Obligations.KeyByteWriteClearsSubkeysValid
  intro j data s hidle
  have hidle' : (writeKeyByte j data s).busy = false := hidle
  have hksv : (writeKeyByte j data s).ksv = false := rfl
  rw [← keyAddr_eq]
  refine ⟨writeKeyByte j data s, exec_wr_keyAddr j data hidle, ?written, fun k hk => ?others, rfl, rfl,
    fun i k hk => exec_rd_of_draw (readReg_windowAddr_invalid i (by omega) (by simp)),
    exec_cipher_of_invalid .enc hidle' hksv, exec_cipher_of_invalid .dec hidle' hksv⟩
  case written => rw [writeKeyByte_key, byteOf_setByte, if_pos rfl]
  case others => rw [writeKeyByte_key, byteOf_setByte, if_neg hk]

end Sys2Proof.Machine
end

section
/-! Key preparation and the eight byte writes of `WRKEY` (44_host_interface.md R240, 30_encoding.md R77), with the
settled statement on them. -/

namespace Sys2Proof.Machine

variable {s : State} {rest : List Input}

/-! ### The packed bytes -/

/-- Byte `j` of the packed block is byte `j` of the list, or zero where the list has ended (R240). -/
theorem byteOf_packBytes (bytes : List Byte) (j : Fin 8) : byteOf (packBytes bytes) j.val = bytes.getD j.val 0x00 := by
  rw [byteOf, packBytes, slice_cast]
  fin_cases j
  · simp (disch := decide) only [slice_append_left]
    exact slice_all _
  all_goals
    simp (disch := decide) only [slice_append_left]
    exact slice_append_right _ _ rfl

theorem prepareKey_of_fits {text : List Byte} (h : text.length ≤ 8) : prepareKey text = .ok (packBytes text) :=
  if_pos (decide_eq_true h)

theorem prepareKey_of_tooLong {text : List Byte} (h : 8 < text.length) : prepareKey text = .error .keyTooLong :=
  if_neg (by simpa [keyTextFits] using h)

theorem keyWrites_of_ok {text : List Byte} {k : Block64} (h : prepareKey text = .ok k) : keyWrites text = wrKey k := by
  rw [keyWrites, h]

theorem keyWrites_of_error {text : List Byte} {e : DriverError} (h : prepareKey text = .error e) :
    keyWrites text = [] := by
  rw [keyWrites, h]

/-! ### Runs of KEY byte writes -/

/-- The writes of the named bytes of `k` to KEY, in the order of the list; `wrKey k` names all eight. -/
def keyByteWrites (k : Block64) (js : List (Fin 8)) : List Instr := js.map fun j => .wr (keyAddr j) (byteOf k j.val)

theorem wrKey_eq (k : Block64) : wrKey k = keyByteWrites k (List.finRange 8) := rfl

/-- The block after those writes, each taken while idle. -/
def writeKeyBytes (k : Block64) (js : List (Fin 8)) (s : State) : State :=
  js.foldl (fun t j => writeKeyByte j (byteOf k j.val) t) s

theorem decodeBus_transaction_wr (addr : Addr) (data : Byte) :
    decodeBus (encode (.wr addr data)).transaction = .wr addr data := by
  rw [encode, EncodedWord.transaction, encodeWr_eq_busWord, decodeBus_busWord_one]

/-- A KEY byte write that stands next is taken while idle, and the rest of the run stays. -/
theorem step_of_keyByteWrite (j : Fin 8) (data : Byte) (hidle : s.busy = false)
    (h : s.inputs = .bus (encode (.wr (keyAddr j) data)).transaction :: rest) :
    step s = .next (writeKeyByte j data { s with inputs := rest }) := by
  rw [step_of_writeTakenNext ⟨hidle, _, ⟨rest, h⟩, decodeBus_transaction_wr _ _⟩, selectReg_keyAddr, writeReg,
    State.popInput, h, List.tail_cons]

/-- A run of KEY byte writes from an idle state performs them all, in order. -/
theorem run_keyByteWrites (k : Block64) (js : List (Fin 8)) (hidle : s.busy = false)
    (h : s.inputs = transactions (keyByteWrites k js) ++ rest) :
    run js.length s = .next (writeKeyBytes k js { s with inputs := rest }) := by
  induction js generalizing s with
  | nil =>
    have hs : { s with inputs := rest } = s := by rw [← show s.inputs = rest from h]
    rw [hs]
    rfl
  | cons j js ih =>
    rw [List.length_cons, run, step_of_keyByteWrite j _ hidle h]
    exact ih hidle rfl

/-- A byte that the list names is `k`'s, and any other is as it was. -/
theorem byteOf_writeKeyBytes (k : Block64) (js : List (Fin 8)) (s : State) (i : Fin 8) :
    byteOf (writeKeyBytes k js s).key i.val = if i ∈ js then byteOf k i.val else byteOf s.key i.val := by
  induction js generalizing s with
  | nil => rfl
  | cons j js ih =>
    have hcons : writeKeyBytes k (j :: js) s = writeKeyBytes k js (writeKeyByte j (byteOf k j.val) s) := rfl
    rw [hcons, ih, writeKeyByte_key, byteOf_setByte]
    by_cases hj : i = j
    · simp [hj]
    · simp [hj]

/-- `WRKEY k` from an idle state: after its eight transactions KEY is `k`. -/
theorem run_wrKey (k : Block64) (hidle : s.busy = false) (h : s.inputs = transactions (wrKey k) ++ rest) :
    ∃ t, run 8 s = .next t ∧ t.key = k := by
  refine ⟨_, run_keyByteWrites k (List.finRange 8) hidle h, eq_of_byteOf_eq fun i => ?_⟩
  rw [byteOf_writeKeyBytes, if_pos (List.mem_finRange i)]

/-- Settles O58: a text that fits is packed byte by byte, a longer one is reported with nothing to write, and the writes
of the prepared key are its `WRKEY`. -/
theorem keyPreparationPadsOrReports : Obligations.KeyPreparationPadsOrReports := by
  unfold Obligations.KeyPreparationPadsOrReports
  refine fun text => ⟨fun hlong => ?reported, fun hfits => ⟨packBytes text, prepareKey_of_fits hfits,
    byteOf_packBytes text⟩, rfl, rfl, fun s k rest hk hidle hin => ?written⟩
  case reported =>
    have herr := prepareKey_of_tooLong hlong
    exact ⟨herr, keyWrites_of_error herr⟩
  case written =>
    rw [keyWrites_of_ok hk] at hin
    exact run_wrKey k hidle hin

end Sys2Proof.Machine
end

section
/-! The recorded error: what records one, what a refused write leaves alone, and what leaves the error state
(60_exceptions.md R260 to R266), with the settled statements of 60_exceptions.md. -/

namespace Sys2Proof.Machine

variable {s t : State} {addr : Addr} {data : Byte} {f : State → State}

/-! ### Recording an error (R261) -/

/-- Settles O23: the two cases of `raiseError`, by ERR. -/
theorem raiseErrorKeepsTheFirst : Obligations.RaiseErrorKeepsTheFirst := by
  unfold Obligations.RaiseErrorKeepsTheFirst
  exact fun code s => ⟨raiseError_of_clear code, raiseError_of_set code⟩

/-- The state with ERR and ERRCODE replaced, and every other element as it is. -/
def State.withError (s : State) (err : Bool) (code : ErrCode) : State := { s with err := err, errcode := code }

/-- Recording an error touches ERR and ERRCODE at most (R262). -/
theorem raiseError_frame (e : ErrCode) (s : State) :
    raiseError e s = s.withError (raiseError e s).err (raiseError e s).errcode := by
  rw [raiseError_eq]; rfl

/-! ### The engine neither reads nor writes the recorded error (R262) -/

theorem engineTurn_of_idle (h : s.phase = .idle) : engineTurn s = s := by
  simp only [engineTurn, h]

theorem ksRoundStep_withError (i : Fin 16) (s : State) (err : Bool) (code : ErrCode) :
    ksRoundStep i (s.withError err code) = (ksRoundStep i s).withError err code := by
  by_cases hi : i.val + 1 < 16
  · rw [ksRoundStep_of_lt _ hi, ksRoundStep_of_lt _ hi]; rfl
  · rw [ksRoundStep_of_last _ hi, ksRoundStep_of_last _ hi]; rfl

theorem engineTurn_withError (s : State) (err : Bool) (code : ErrCode) :
    engineTurn (s.withError err code) = (engineTurn s).withError err code := by
  cases h : s.phase with
  | idle => rw [engineTurn_of_idle h, engineTurn_of_idle (s := s.withError err code) h]
  | ksSplit => rw [engineTurn_of_ksSplit h, engineTurn_of_ksSplit (s := s.withError err code) h]; rfl
  | ksRound i =>
    rw [engineTurn_of_ksRound h, engineTurn_of_ksRound (s := s.withError err code) h, ksRoundStep_withError]
  | ciInit => rw [engineTurn_of_ciInit h, engineTurn_of_ciInit (s := s.withError err code) h]; rfl
  | ciRound i => rw [engineTurn_of_ciRound h, engineTurn_of_ciRound (s := s.withError err code) h]; rfl
  | ciFinal => rw [engineTurn_of_ciFinal h, engineTurn_of_ciFinal (s := s.withError err code) h]; rfl

@[simp] theorem engineTurn_err (s : State) : (engineTurn s).err = s.err :=
  (congrArg State.err (engineTurn_withError s s.err s.errcode) :)

@[simp] theorem engineTurn_errcode (s : State) : (engineTurn s).errcode = s.errcode :=
  (congrArg State.errcode (engineTurn_withError s s.err s.errcode) :)

theorem engineTurns_withError (n : Nat) (s : State) (err : Bool) (code : ErrCode) :
    engineTurns n (s.withError err code) = (engineTurns n s).withError err code := by
  induction n generalizing s with
  | zero => rfl
  | succ n ih => rw [engineTurns, engineTurn_withError, ih, engineTurns]

/-! ### Refused writes (R262, R263) -/

/-- The legal bytes are those that the decoder does not refuse (30_encoding.md R71, R72, R74). -/
theorem commandByteLegal_eq_false_iff (c : Byte) : commandByteLegal c = false ↔ ∃ e, decodeCmdByte c = .error e := by
  rw [decodeCmdByte_error_iff, commandByteLegal, Bool.and_eq_false_iff, beq_eq_false_iff_ne, decide_eq_false_iff_not,
    Nat.not_lt]

theorem exec_wr_cmd_of_illegal (hidle : s.busy = false) (haddr : addr = 0x10) (h : commandByteLegal data = false) :
    exec (.wr addr data) s = .next (raiseError .illegalCmd s) := by
  obtain ⟨e, he⟩ := (commandByteLegal_eq_false_iff data).mp h
  rw [haddr, exec_wr_cmd_of_error he hidle]

theorem exec_wr_cmd_of_noSubkeys (hidle : s.busy = false) (haddr : addr = 0x10) (h : data = 0x02 ∨ data = 0x03)
    (hksv : s.ksv = false) : exec (.wr addr data) s = .next (raiseError .noSubkeys s) := by
  have hcipher (m : Mode) : exec (.wr 0x10 m.command.byte) s = .next (raiseError .noSubkeys s) := by
    rw [exec_wr_cmd_byte, exec_cipher_of_invalid m hidle hksv]
  rw [haddr]
  obtain rfl | rfl := h
  · exact hcipher .enc
  · exact hcipher .dec

/-- A write that is refused for any of the three reasons does nothing but record an error. -/
theorem exists_exec_wr_eq_raiseError
    (h : s.busy = true ∨ (s.busy = false ∧ addr = 0x10 ∧ commandByteLegal data = false) ∨
      (s.busy = false ∧ addr = 0x10 ∧ (data = 0x02 ∨ data = 0x03) ∧ s.ksv = false)) :
    ∃ e, exec (.wr addr data) s = .next (raiseError e s) := by
  obtain hbusy | ⟨hidle, haddr, hillegal⟩ | ⟨hidle, haddr, hcipher, hksv⟩ := h
  · exact ⟨_, exec_wr_of_busy addr data hbusy⟩
  · exact ⟨_, exec_wr_cmd_of_illegal hidle haddr hillegal⟩
  · exact ⟨_, exec_wr_cmd_of_noSubkeys hidle haddr hcipher hksv⟩

/-- Settles O25: a refused write only records an error, and the engine's turns carry ERR and ERRCODE along unread. -/
theorem refusedTransactionHasNoOtherEffect : Obligations.RefusedTransactionHasNoOtherEffect := by
  unfold Obligations.RefusedTransactionHasNoOtherEffect
  intro addr data s t ht hrefused
  obtain ⟨e, he⟩ := exists_exec_wr_eq_raiseError hrefused
  obtain rfl : raiseError e s = t := Host.Outcome.next.inj (he.symm.trans ht)
  refine ⟨raiseError_frame e s, raiseError_err s e, fun n => ?turns⟩
  case turns => exact (congrArg (engineTurns n) (raiseError_frame e s)).trans (engineTurns_withError n s _ _)

/-! ### Writes that record no error (R263) -/

theorem acceptCipher_err (m : Mode) (s : State) : (acceptCipher m s).err = (!s.ksv || s.err) := by
  cases h : s.ksv
  · simp [acceptCipher_of_invalid m h]
  · simp [acceptCipher_of_valid m h]

/-- A command records no error but for want of subkeys (43_block_cipher.md R197, R198). -/
theorem performCommand_err_of_clear {op : CmdOp} (hksv : op = .encrypt ∨ op = .decrypt → s.ksv = true)
    (h : s.err = false) : (performCommand op s).err = false := by
  cases op with
  | nop | keysched => exact h
  | encrypt => rw [performCommand, acceptCipher_err, hksv (.inl rfl), h]; rfl
  | decrypt => rw [performCommand, acceptCipher_err, hksv (.inr rfl), h]; rfl
  | clrerr => rfl

/-- A taken write records no error, unless it gives CMD an illegal byte, or a cipher command without subkeys. -/
theorem writeReg_err_of_clear (h : s.err = false)
    (hok : ¬(addr = 0x10 ∧ (commandByteLegal data = false ∨ (data = 0x02 ∨ data = 0x03) ∧ s.ksv = false))) :
    (writeReg (selectReg addr) data s).err = false := by
  obtain ⟨-, -, haddr⟩ := addr_of_selectReg addr
  obtain ⟨j, -, e⟩ | ⟨j, -, e⟩ | ⟨hsel, op, hop, e⟩ | ⟨hsel, hbyte, -⟩ | e := writeReg_cases (selectReg addr) data s
  · rw [e, writeKeyByte_err, h]
  · rw [e, writeDataByte_err, h]
  · have hksv (hdata : data = 0x02 ∨ data = 0x03) : s.ksv = true :=
      Bool.eq_true_of_not_eq_false fun hclear => hok ⟨haddr hsel, .inr ⟨hdata, hclear⟩⟩
    rw [e]
    refine performCommand_err_of_clear (fun hcipher => hksv ?_) h
    obtain rfl | rfl := hcipher
    · exact .inl hop
    · exact .inr hop
  · exact absurd ⟨haddr hsel, .inl ((commandByteLegal_eq_false_iff data).mpr (exists_decodeCmdByte_eq_error hbyte))⟩ hok
  · rw [e, h]

/-- Settles O24: the three refusals in their order, the writes that are not refused, and the reads and turns of the
engine, which leave ERR and ERRCODE alone. -/
theorem errorPriorityWithinATransaction : Obligations.ErrorPriorityWithinATransaction := by
  unfold Obligations.ErrorPriorityWithinATransaction
  exact fun addr data s => ⟨exec_wr_of_busy addr data, exec_wr_cmd_of_illegal, exec_wr_cmd_of_noSubkeys,
    fun hidle hok hclear => ⟨_, exec_wr_of_idle addr data hidle, writeReg_err_of_clear hclear hok⟩,
    ⟨_, rfl, deliver_err s _, deliver_errcode s _⟩, engineTurn_err s, engineTurn_errcode s⟩

/-! ### What leaves the error state (R266) -/

@[simp] theorem popInput_err (s : State) : s.popInput.err = s.err := rfl
@[simp] theorem popInput_errcode (s : State) : s.popInput.errcode = s.errcode := rfl

/-- An error already recorded is left as it is by a cipher command, accepted or refused. -/
theorem acceptCipher_error_of_set (m : Mode) (h : s.err = true) :
    (acceptCipher m s).err = true ∧ (acceptCipher m s).errcode = s.errcode := by
  cases hksv : s.ksv
  · rw [acceptCipher_of_invalid m hksv, raiseError_of_set _ h]
    exact ⟨h, rfl⟩
  · rw [acceptCipher_of_valid m hksv]
    exact ⟨h, rfl⟩

theorem performCommand_error_of_set {op : CmdOp} (hop : op ≠ .clrerr) (h : s.err = true) :
    (performCommand op s).err = true ∧ (performCommand op s).errcode = s.errcode := by
  cases op with
  | nop | keysched => exact ⟨h, rfl⟩
  | encrypt | decrypt => exact acceptCipher_error_of_set _ h
  | clrerr => exact absurd rfl hop

/-- A taken write keeps the recorded error, unless it is CLRERR's. -/
theorem writeReg_error_of_set (h : s.err = true) (hclr : ¬(addr = 0x10 ∧ data = 0x04)) :
    (writeReg (selectReg addr) data s).err = true ∧ (writeReg (selectReg addr) data s).errcode = s.errcode := by
  obtain ⟨j, -, e⟩ | ⟨j, -, e⟩ | ⟨hsel, op, hop, e⟩ | ⟨-, -, e⟩ | e := writeReg_cases (selectReg addr) data s <;> rw [e]
  · exact ⟨h, rfl⟩
  · exact ⟨h, rfl⟩
  · obtain ⟨-, -, haddr⟩ := addr_of_selectReg addr
    refine performCommand_error_of_set (fun hopc => hclr ⟨haddr hsel, ?_⟩) h
    rw [hop, hopc]
    rfl
  · rw [raiseError_of_set _ h]
    exact ⟨h, rfl⟩
  · exact ⟨h, rfl⟩

/-- A step from `ERR = 1` keeps the recorded error, unless it is a reset or a taken CLRERR. -/
theorem step_error_of_set (h : step s = .next t) (herr : s.err = true) :
    (t.err = true ∧ t.errcode = s.errcode) ∨
    (t.err = false ∧ (s.resetNext ∨ s.writeTakenNext 0x10 0x04)) := by
  obtain ⟨-, rfl⟩ | ⟨hreset, rfl⟩ | ⟨addr, data, hw, rfl⟩ | ⟨T, addr, data, -, -, -, rfl⟩ | ⟨T, addr, -, -, rfl⟩ :=
    step_next_cases h
  · exact .inl (by simp [herr])
  · exact .inr ⟨rfl, .inl hreset⟩
  · by_cases hclr : addr = 0x10 ∧ data = 0x04
    · obtain ⟨rfl, rfl⟩ := hclr
      exact .inr ⟨congrArg State.err (writeReg_cmd_byte .clrerr s.popInput), .inr hw⟩
    · exact .inl (writeReg_error_of_set (s := s.popInput) herr hclr)
  · exact .inl (by simp [herr])
  · exact .inl (by simp [herr])

/-! ### The recorded error blocks no command (R266) -/

/-- An operation whose effect, ERR and ERRCODE apart, does not depend on ERR and ERRCODE: `clearError` hides the two. -/
def ErrorBlind (f : State → State) : Prop := ∀ s, clearError (f (clearError s)) = clearError (f s)

theorem clearError_raiseError (e : ErrCode) (s : State) : clearError (raiseError e s) = clearError s := by
  rw [raiseError_eq]; rfl

theorem errorBlind_raiseError (e : ErrCode) : ErrorBlind (raiseError e) := fun s => by
  rw [clearError_raiseError, clearError_raiseError]; rfl

theorem errorBlind_acceptCipher (m : Mode) : ErrorBlind (acceptCipher m) := by
  intro s
  cases h : s.ksv
  · rw [acceptCipher_of_invalid m h, acceptCipher_of_invalid (s := clearError s) m h]
    exact errorBlind_raiseError .noSubkeys s
  · rw [acceptCipher_of_valid m h, acceptCipher_of_valid (s := clearError s) m h]
    rfl

theorem errorBlind_performCommand : ∀ op : CmdOp, ErrorBlind (performCommand op)
  | .nop | .keysched | .clrerr => fun _ => rfl
  | .encrypt => errorBlind_acceptCipher .enc
  | .decrypt => errorBlind_acceptCipher .dec

theorem errorBlind_writeReg (sel : RegSel) (data : Byte) : ErrorBlind (writeReg sel data) := by
  cases sel with
  | key | data | status | errcode | window | unmapped => exact fun _ => rfl
  | cmd =>
    cases h : decodeCmdByte data with
    | ok op =>
      obtain rfl := (decodeCmdByte_ok_iff data op).mp h
      exact fun s => by simpa only [writeReg, writeCmd_byte] using errorBlind_performCommand op s
    | error e => exact fun s => by simpa only [writeReg, writeCmd, h] using errorBlind_raiseError .illegalCmd s

theorem errorBlind_guardedWrite (hf : ErrorBlind f) : ErrorBlind (guardedWrite f) := by
  intro s
  cases h : s.busy
  · rw [guardedWrite_of_idle f h, guardedWrite_of_idle (s := clearError s) f h]
    exact hf s
  · rw [guardedWrite_of_busy f h, guardedWrite_of_busy (s := clearError s) f h]
    exact errorBlind_raiseError .busyWrite s

/-- Every instruction but a read is one operation on the state, blind to the recorded error. -/
theorem exists_errorBlind_exec {i : Instr} (hi : ∀ addr, i ≠ .rd addr) :
    ∃ f, ErrorBlind f ∧ ∀ s, exec i s = .next (f s) := by
  have hcommand (op : CmdOp) : ∃ f, ErrorBlind f ∧ ∀ s, exec op.toInstr s = .next (f s) :=
    ⟨_, errorBlind_guardedWrite (errorBlind_performCommand op), exec_toInstr op⟩
  cases i with
  | wr addr data => exact ⟨_, errorBlind_guardedWrite (errorBlind_writeReg (selectReg addr) data), fun _ => rfl⟩
  | rd addr => exact absurd rfl (hi addr)
  | nop => exact hcommand .nop
  | keysched => exact hcommand .keysched
  | encrypt => exact hcommand .encrypt
  | decrypt => exact hcommand .decrypt
  | clrerr => exact hcommand .clrerr

/-- Two states that `clearError` makes equal differ in ERR and ERRCODE at most. -/
theorem eq_withError_of_clearError_eq (h : clearError s = clearError t) : s = t.withError s.err s.errcode :=
  (congrArg (fun u : State => u.withError s.err s.errcode) h :)

/-- Settles O26: a step from `ERR = 1` leaves the error alone but for the two exits, and an instruction blind to the
error does the same from the state with the error cleared. -/
theorem errorStateIsStickyAndHarmless : Obligations.ErrorStateIsStickyAndHarmless := by
  unfold Obligations.ErrorStateIsStickyAndHarmless
  refine ⟨fun s t h herr => ?sticky, fun i s t t' hi ht ht' => ?harmless⟩
  case sticky =>
    obtain ⟨hset, hcode⟩ | ⟨hclear, hexit⟩ := step_error_of_set h herr
    · exact ⟨fun _ => hcode, fun hclear => absurd hclear (by simp [hset])⟩
    · exact ⟨fun hset => absurd hset (by simp [hclear]), fun _ => hexit⟩
  case harmless =>
    obtain ⟨f, hf, hexec⟩ := exists_errorBlind_exec hi
    obtain rfl := Host.Outcome.next.inj ((hexec s).symm.trans ht)
    obtain rfl := Host.Outcome.next.inj ((hexec (clearError s)).symm.trans ht')
    exact eq_withError_of_clearError_eq (hf s)

end Sys2Proof.Machine
end

section
/-! What a host reads of the block's state right after reset, and the settled statement of 70_reset_and_hazards.md. -/

namespace Sys2Proof.Machine

theorem exec_rd_statusAddr (s : State) :
    exec (.rd statusAddr) s = .next { s with reads := s.reads ++ [statusByte s] } :=
  exec_rd_of_byte (congrArg (readReg · s) selectReg_statusAddr)

theorem exec_rd_errcodeAddr (s : State) :
    exec (.rd errcodeAddr) s = .next { s with reads := s.reads ++ [errcodeByte s] } :=
  exec_rd_of_byte (congrArg (readReg · s) selectReg_errcodeAddr)

theorem busy_reset : State.reset.busy = false := busy_eq_false_iff.mpr rfl

/-- All four flags of STATUS are clear after reset (R290). -/
theorem statusByte_reset : statusByte State.reset = 0x00 := statusByte_of_flags rfl rfl rfl busy_reset

/-- No error code is recorded after reset (R290). -/
theorem errcodeByte_reset : errcodeByte State.reset = 0x00 := errcodeByte_of_errcode (e := .none) rfl

/-- Settles O30: the values stand in the reset state, the two reads return the views of its clear flags and code, and
the engine has no step from IDLE. -/
theorem resetLeavesTheSpecifiedValues : Obligations.ResetLeavesTheSpecifiedValues := by
  unfold Obligations.ResetLeavesTheSpecifiedValues
  refine ⟨rfl, rfl, rfl, rfl, rfl, rfl, rfl, busy_reset, ?status, ?errcode, engineTurn_of_idle rfl⟩
  case status => rw [← statusByte_reset]; exact exec_rd_statusAddr State.reset
  case errcode => rw [← errcodeByte_reset]; exact exec_rd_errcodeAddr State.reset

end Sys2Proof.Machine
end

section
/-! Encoding and decoding are inverse to each other (30_encoding.md R70 to R72, R76, R77), and what a step does with a
word that is given to it (R78, 70_reset_and_hazards.md R293), with the settled statements on them. -/

namespace Sys2Proof.Machine

/-! ### From an instruction to its word and back -/

theorem decodeBus_encodeRd (addr : Addr) : decodeBus (encodeRd addr) = .rd addr := by
  rw [encodeRd_eq_busWord, decodeBus_busWord_zero]

theorem encode_toInstr (op : CmdOp) : encode op.toInstr = .cmd op.byte := by
  cases op <;> rfl

theorem decode_encode (i : Instr) : decode (encode i) = .ok i := by
  have hcommand (op : CmdOp) : decode (.cmd op.byte) = .ok op.toInstr := decode_cmd_of_eq_byte op rfl
  cases i with
  | wr addr data => exact congrArg Except.ok (decodeBus_transaction_wr addr data)
  | rd addr => exact congrArg Except.ok (decodeBus_encodeRd addr)
  | nop => exact hcommand .nop
  | keysched => exact hcommand .keysched
  | encrypt => exact hcommand .encrypt
  | decrypt => exact hcommand .decrypt
  | clrerr => exact hcommand .clrerr

/-- On the bus a command is the write of its byte to CMD (R77). -/
theorem decodeBus_transaction_cmd (op : CmdOp) : decodeBus (encode op.toInstr).transaction = .wr 0x10 op.byte := by
  rw [encode_toInstr]
  exact decodeBus_transaction_wr 0x10 op.byte

/-! ### From a word to its instruction and back -/

/-- A word is made of its three fields (R70). -/
theorem busWord_of_fields (T : BusWord) :
    busWord (T.extractLsb' 16 1) (T.extractLsb' 8 8) (T.extractLsb' 0 8) = T := by
  have haddr : (T.extractLsb' 16 1 ++ T.extractLsb' 8 8 : BitVec 9) = T.extractLsb' 8 9 :=
    BitVec.extractLsb'_append_extractLsb'_eq_extractLsb' rfl
  have hdata : (T.extractLsb' 8 9 ++ T.extractLsb' 0 8 : BusWord) = T.extractLsb' 0 17 :=
    BitVec.extractLsb'_append_extractLsb'_eq_extractLsb' rfl
  simp only [busWord, concat, BitVec.cast_eq, haddr, hdata, BitVec.extractLsb'_eq_self]

/-- The mask 0x0FF00 keeps ADDR alone. -/
theorem busWord_and_addrMask (w : BitVec 1) (addr : Addr) (data : Byte) :
    busWord w addr data &&& 0x0FF00 = busWord 0#1 addr 0x00#8 := by
  have hhigh : (w ++ addr : BitVec 9) &&& (0#1 ++ 0xFF#8) = 0#1 ++ addr := by
    rw [BitVec.and_append, BitVec.and_zero, show addr &&& 0xFF#8 = addr from BitVec.and_allOnes]
  have hsplit : ((w ++ addr : BitVec 9) ++ data) &&& ((0#1 ++ 0xFF#8 : BitVec 9) ++ 0x00#8) =
      ((w ++ addr : BitVec 9) &&& (0#1 ++ 0xFF#8)) ++ (data &&& 0x00#8) := BitVec.and_append
  rw [hhigh, BitVec.and_zero] at hsplit
  exact hsplit

theorem extractLsb'_w_eq_one_iff (T : BusWord) : T.extractLsb' 16 1 = 1#1 ↔ T.getLsbD 16 = true := by
  rw [BitVec.eq_of_getLsbD_eq_iff]
  simp

theorem encode_decodeBus (T : BusWord) :
    encode (decodeBus T) = .bus (if T.getLsbD 16 then T else T &&& 0x0FF00) := by
  have hfields := busWord_of_fields T
  by_cases hw : T.extractLsb' 16 1 = 1#1
  · rw [decodeBus_of_write hw, if_pos ((extractLsb'_w_eq_one_iff T).mp hw), encode, encodeWr_eq_busWord, ← hw, hfields]
  · rw [decodeBus_of_read hw, if_neg (mt (extractLsb'_w_eq_one_iff T).mpr hw), encode, encodeRd_eq_busWord,
      ← busWord_and_addrMask, hfields]

/-- A command byte that decodes is the byte of the opcode whose instruction it decodes to (R72, R78). -/
theorem exists_op_of_decode_cmd {c : Byte} {i : Instr} (h : decode (.cmd c) = .ok i) :
    ∃ op : CmdOp, c = op.byte ∧ i = op.toInstr := by
  cases hc : decodeCmdByte c with
  | ok op =>
    obtain rfl := (decodeCmdByte_ok_iff c op).mp hc
    exact ⟨op, rfl, (Except.ok.inj ((decode_cmd_of_eq_byte op rfl).symm.trans h)).symm⟩
  | error e => rw [decode_cmd_of_error hc] at h; cases h

/-- Settles O2: the word of a transaction is the concatenation of its fields, and the word of a command its opcode's
byte, so that each is taken apart and put together again without loss. -/
theorem decodeAndEncodeAgree : Obligations.DecodeAndEncodeAgree := by
  unfold Obligations.DecodeAndEncodeAgree
  refine ⟨decode_encode, decodeBus_transaction_wr, decodeBus_encodeRd, decodeBus_transaction_cmd, encode_decodeBus,
    fun c i h => ?_⟩
  obtain ⟨op, rfl, rfl⟩ := exists_op_of_decode_cmd h
  exact encode_toInstr op

/-- Settles O4: ten closed words, evaluated. -/
theorem writtenOutWordsDecode : Obligations.WrittenOutWordsDecode := by
  unfold Obligations.WrittenOutWordsDecode
  decide

/-! ### The step of a given word -/

/-- Settles O5: the step of a bus event runs the instruction that the total decoder names. -/
theorem stepRunsDecodedTransaction : Obligations.StepRunsDecodedTransaction := by
  unfold Obligations.StepRunsDecodedTransaction
  intro s T rest i hin hdec
  obtain rfl : decodeBus T = i := Except.ok.inj hdec
  rw [step_of_hostNext ⟨rest, hin⟩, State.popInput, hin, List.tail_cons]

theorem decode_tableWord_of_some {nbits w : Nat} {i : Instr} (h : decodeTableWord nbits w = some i) :
    decode (tableWord nbits w) = .ok i := by
  rw [decodeTableWord] at h
  split at h
  next hdec => rw [hdec, Option.some.inj h]
  next => cases h

theorem tableWord_cmd (c : Byte) : tableWord 8 c.toNat = .cmd c := by
  rw [tableWord, if_pos (le_refl 8), BitVec.ofNat_toNat, BitVec.setWidth_eq]

theorem tableWord_bus (T : BusWord) : tableWord 24 T.toNat = .bus T := by
  rw [tableWord, if_neg (by decide), BitVec.ofNat_toNat, BitVec.setWidth_eq]

/-- A placed word is the next event, and taking it off gives the state back (log 6). -/
theorem step_withFetchWord (s : State) (nbits w : Nat) :
    step (s.withFetchWord nbits w) = exec (decodeBus (tableWord nbits w).transaction) s :=
  step_of_hostNext ⟨s.inputs, rfl⟩

/-- Settles O6: a placed command byte runs as the write of an opcode's byte to CMD, which is that command, and a placed
bus word runs as itself. -/
theorem placedTableWordRunsNext : Obligations.PlacedTableWordRunsNext := by
  unfold Obligations.PlacedTableWordRunsNext
  refine ⟨fun s c i h => ?cmd, fun s T i h => ?bus⟩
  case cmd =>
    have hdec := decode_tableWord_of_some h
    rw [tableWord_cmd] at hdec
    obtain ⟨op, rfl, rfl⟩ := exists_op_of_decode_cmd hdec
    rw [step_withFetchWord, tableWord_cmd, ← encode_toInstr, decodeBus_transaction_cmd, exec_wr_cmd_byte]
  case bus =>
    have hdec := decode_tableWord_of_some h
    rw [tableWord_bus] at hdec
    obtain rfl : decodeBus T = i := Except.ok.inj hdec
    rw [step_withFetchWord, tableWord_bus, EncodedWord.transaction]

end Sys2Proof.Machine
end

section
/-! What a turn of the engine leaves alone, and the statements on single instructions and steps that follow from the
shared operations (70_reset_and_hazards.md R291 to R293, 44_host_interface.md R221, 41_key_scheduler.md R137,
43_block_cipher.md R197 and R198). -/

namespace Sys2Proof.Machine

variable {s t : State}

/-! ### What no turn of the engine writes -/

@[simp] theorem engineTurn_key (s : State) : (engineTurn s).key = s.key := by
  obtain ⟨-, e⟩ | ⟨-, e⟩ | ⟨i, -, e⟩ | ⟨-, e⟩ | ⟨i, -, e⟩ | ⟨-, e⟩ := engineTurn_cases s <;> simp [e]

@[simp] theorem engineTurn_inputs (s : State) : (engineTurn s).inputs = s.inputs := by
  obtain ⟨-, e⟩ | ⟨-, e⟩ | ⟨i, -, e⟩ | ⟨-, e⟩ | ⟨i, -, e⟩ | ⟨-, e⟩ := engineTurn_cases s <;> simp [e]

@[simp] theorem engineTurn_reads (s : State) : (engineTurn s).reads = s.reads := by
  obtain ⟨-, e⟩ | ⟨-, e⟩ | ⟨i, -, e⟩ | ⟨-, e⟩ | ⟨i, -, e⟩ | ⟨-, e⟩ := engineTurn_cases s <;> simp [e]

@[simp] theorem engineTurn_draws (s : State) : (engineTurn s).draws = s.draws := by
  obtain ⟨-, e⟩ | ⟨-, e⟩ | ⟨i, -, e⟩ | ⟨-, e⟩ | ⟨i, -, e⟩ | ⟨-, e⟩ := engineTurn_cases s <;> simp [e]

/-- DATA is written by the last step of a cipher operation only (10_state.md R21). -/
theorem engineTurn_data_of_ne (h : s.phase ≠ .ciFinal) : (engineTurn s).data = s.data := by
  obtain ⟨-, e⟩ | ⟨-, e⟩ | ⟨i, -, e⟩ | ⟨-, e⟩ | ⟨i, -, e⟩ | ⟨hp, -⟩ := engineTurn_cases s
  case inr.inr.inr.inr.inr => exact absurd hp h
  all_goals simp [e]

/-! ### How far an operation has to go (70_reset_and_hazards.md R294) -/

/-- The number of internal steps that the operation in progress still has to take: 17 for a KEYSCHED and 18 for a cipher
operation that has just been accepted, and none in IDLE. -/
def Phase.remaining : Phase → Nat
  | .idle => 0
  | .ksSplit => 17
  | .ksRound i => 16 - i.val
  | .ciInit => 18
  | .ciRound i => 17 - i.val
  | .ciFinal => 1

theorem remaining_eq_zero_iff (p : Phase) : p.remaining = 0 ↔ p = .idle := by
  cases p <;> simp [Phase.remaining] <;> omega

theorem remaining_le (p : Phase) : p.remaining ≤ 18 := by
  cases p <;> simp only [Phase.remaining] <;> omega

theorem ksRoundStep_phase_of_lt {i : Fin 16} (s : State) (h : i.val + 1 < 16) :
    (ksRoundStep i s).phase = .ksRound ⟨i.val + 1, h⟩ := by rw [ksRoundStep_of_lt s h]

theorem ksRoundStep_phase_of_last {i : Fin 16} (s : State) (h : ¬i.val + 1 < 16) : (ksRoundStep i s).phase = .idle := by
  rw [ksRoundStep_of_last s h]; rfl

/-- Each turn of the engine takes one of these steps. -/
theorem engineTurn_remaining (s : State) : (engineTurn s).phase.remaining = s.phase.remaining - 1 := by
  obtain ⟨h, e⟩ | ⟨h, e⟩ | ⟨i, h, e⟩ | ⟨h, e⟩ | ⟨i, h, e⟩ | ⟨h, e⟩ := engineTurn_cases s <;> rw [e, h]
  · rfl
  · rfl
  · by_cases hi : i.val + 1 < 16
    · rw [ksRoundStep_phase_of_lt s hi, Phase.remaining, Phase.remaining, Nat.sub_sub]
    · rw [ksRoundStep_phase_of_last s hi, Phase.remaining, Phase.remaining]
      omega
  · rfl
  · by_cases hi : i.val + 1 < 16
    · rw [ciRoundStep_phase_of_lt s hi, Phase.remaining, Phase.remaining, Nat.sub_sub]
    · rw [ciRoundStep_phase_of_last s hi, Phase.remaining, Phase.remaining]
      omega
  · rfl

theorem engineTurn_phase_ne (h : s.busy = true) : (engineTurn s).phase ≠ s.phase := by
  intro e
  have hturn := engineTurn_remaining s
  have hpos := mt (remaining_eq_zero_iff s.phase).mp (busy_eq_true_iff.mp h)
  rw [e] at hturn
  omega

/-- Settles O8: in IDLE the turn changes nothing, and a turn while busy has one internal step less to go, so it is in
another phase. -/
theorem engineTurnTakesAStepExactlyWhenBusy : Obligations.EngineTurnTakesAStepExactlyWhenBusy := by
  unfold Obligations.EngineTurnTakesAStepExactlyWhenBusy
  intro s u hu
  have hnext : s.engineNext ∧ u = s.popInput := by
    obtain ⟨hin, rfl⟩ | ⟨rest, hin, rfl⟩ := hu
    · exact ⟨.inl hin, by simp [State.popInput, State.ext_iff, hin]⟩
    · exact ⟨.inr ⟨rest, hin⟩, by rw [State.popInput, hin, List.tail_cons]⟩
  obtain ⟨he, rfl⟩ := hnext
  rw [step_of_engineNext he]
  refine ⟨fun hidle => ?idle, fun hbusy => ⟨engineTurn s.popInput, rfl, engineTurn_phase_ne (s := s.popInput) hbusy,
    ?frame⟩⟩
  case idle => rw [engineTurn_of_idle (s := s.popInput) (busy_eq_false_iff.mp hidle)]
  case frame => exact ⟨engineTurn_key _, engineTurn_err _, engineTurn_errcode _, engineTurn_inputs _,
    engineTurn_reads _, engineTurn_draws _⟩

/-! ### Instructions and steps -/

theorem exists_exec_eq_next (i : Instr) (s : State) : ∃ t, exec i s = .next t := by
  cases i <;> exact ⟨_, rfl⟩

/-- Settles O7: each of the three events of a run, and an instruction among them, has a next state. -/
theorem everyInstructionAndStepCompletes : Obligations.EveryInstructionAndStepCompletes := by
  unfold Obligations.EveryInstructionAndStepCompletes
  refine ⟨exists_exec_eq_next, fun s => ?_⟩
  obtain he | hr | ⟨T, hT⟩ := engineNext_or_resetNext_or_hostNext s
  · exact ⟨_, step_of_engineNext he⟩
  · exact ⟨_, step_of_resetNext hr⟩
  · rw [step_of_hostNext hT]
    exact exists_exec_eq_next _ _

/-- Settles O19: a read delivers its byte, which the rules fix or which is the next free value. -/
theorem readsChangeNoRegister : Obligations.ReadsChangeNoRegister := by
  unfold Obligations.ReadsChangeNoRegister
  intro addr s
  obtain ⟨b, -, e⟩ | ⟨-, e⟩ := deliver_cases (readReg (selectReg addr) s) s
  · exact ⟨b, s.draws, congrArg Host.Outcome.next e, .inl rfl⟩
  · exact ⟨Config.draw8 s.draws, s.draws + 1, congrArg Host.Outcome.next e, .inr ⟨rfl, rfl⟩⟩

/-- Settles O17: KEYSCHED is the guarded acceptance, as a command and as the write of its byte. -/
theorem keyschedAcceptance : Obligations.KeyschedAcceptance := by
  unfold Obligations.KeyschedAcceptance
  exact fun s => ⟨exec_toInstr_of_idle .keysched, exec_toInstr_of_busy .keysched, exec_wr_cmd_byte .keysched s⟩

/-- A cipher command taken while `KSV = 1` is accepted (43_block_cipher.md R197, R198). -/
theorem exec_cipher_of_valid (m : Mode) (hidle : s.busy = false) (h : s.ksv = true) :
    exec m.command.toInstr s = .next { s with mode := m, done := false, phase := .ciInit } := by
  rw [exec_toInstr_of_idle _ hidle]
  cases m <;> exact congrArg Host.Outcome.next (acceptCipher_of_valid _ h)

/-- Settles O18: by KSV a cipher command is accepted or records NO_SUBKEYS, and while busy the guard refuses it. -/
theorem cipherCommandAcceptance : Obligations.CipherCommandAcceptance := by
  unfold Obligations.CipherCommandAcceptance
  exact fun s => ⟨fun hidle hksv => ⟨exec_cipher_of_valid .enc hidle hksv, exec_cipher_of_valid .dec hidle hksv⟩,
    fun hidle hksv => ⟨exec_cipher_of_invalid .enc hidle hksv, exec_cipher_of_invalid .dec hidle hksv⟩,
    fun hbusy => ⟨exec_toInstr_of_busy .encrypt hbusy, exec_toInstr_of_busy .decrypt hbusy⟩,
    exec_wr_cmd_byte .encrypt s, exec_wr_cmd_byte .decrypt s⟩

/-- Settles O31: a reset event runs `takeReset`, whose fields do not depend on the state it is taken in. -/
theorem resetAbortsAnyOperation : Obligations.ResetAbortsAnyOperation := by
  unfold Obligations.ResetAbortsAnyOperation
  intro s rest hin
  refine ⟨takeReset s.popInput, step_of_resetNext ⟨rest, hin⟩, rfl, rfl, rfl, rfl, rfl, rfl, rfl, rfl, ?_, rfl⟩
  rw [takeReset_inputs, State.popInput, hin, List.tail_cons]

end Sys2Proof.Machine
end

section
/-! The invariants of 10_state.md §5 and of 43_block_cipher.md §3, each kept by every step (R25, R26, R34, R35, R202),
and who writes KEY, DATA, KS and KSV (10_state.md §2), with the settled statements on them. -/

namespace Sys2Proof.Machine

variable {s t : State} {addr : Addr} {data : Byte} {I : State → Prop}

/-! ### One argument for every invariant -/

/-- An invariant survives everything that a step can do to the state: a turn of the engine, a reset, the four kinds of
accepted write, the record of an error, and the delivery of a read. -/
structure KeptByEveryEvent (I : State → Prop) : Prop where
  popInput : ∀ s, I s → I s.popInput
  engineTurn : ∀ s, I s → I (engineTurn s)
  takeReset : ∀ s, I (takeReset s)
  writeKeyByte : ∀ j b s, s.phase = .idle → I s → I (writeKeyByte j b s)
  writeDataByte : ∀ j b s, s.phase = .idle → I s → I (writeDataByte j b s)
  acceptKeysched : ∀ s, s.phase = .idle → I s → I (acceptKeysched s)
  acceptCipher : ∀ m s, s.phase = .idle → s.ksv = true → I s →
    I { s with mode := m, done := false, phase := .ciInit }
  clearError : ∀ s, s.phase = .idle → I s → I (clearError s)
  raiseError : ∀ e s, e ≠ .none → I s → I (raiseError e s)
  deliver : ∀ v s, I s → I (deliver v s)

theorem KeptByEveryEvent.performCommand (hI : KeptByEveryEvent I) (op : CmdOp) (hp : s.phase = .idle) (hs : I s) :
    I (performCommand op s) := by
  have hcipher (m : Mode) : I (Machine.acceptCipher m s) := by
    cases hksv : s.ksv
    · rw [acceptCipher_of_invalid m hksv]
      exact hI.raiseError _ s (by decide) hs
    · rw [acceptCipher_of_valid m hksv]
      exact hI.acceptCipher m s hp hksv hs
  cases op with
  | nop => exact hs
  | keysched => exact hI.acceptKeysched s hp hs
  | encrypt => exact hcipher .enc
  | decrypt => exact hcipher .dec
  | clrerr => exact hI.clearError s hp hs

theorem KeptByEveryEvent.writeReg (hI : KeptByEveryEvent I) (sel : RegSel) (data : Byte) (hp : s.phase = .idle)
    (hs : I s) : I (writeReg sel data s) := by
  obtain ⟨j, -, e⟩ | ⟨j, -, e⟩ | ⟨-, op, -, e⟩ | ⟨-, -, e⟩ | e := writeReg_cases sel data s <;> rw [e]
  · exact hI.writeKeyByte j data s hp hs
  · exact hI.writeDataByte j data s hp hs
  · exact hI.performCommand op hp hs
  · exact hI.raiseError _ s (by decide) hs
  · exact hs

theorem KeptByEveryEvent.step (hI : KeptByEveryEvent I) (hs : I s) (h : step s = .next t) : I t := by
  have hpop : I s.popInput := hI.popInput s hs
  obtain ⟨-, rfl⟩ | ⟨-, rfl⟩ | ⟨addr, data, ⟨hidle, -⟩, rfl⟩ | ⟨T, addr, data, -, -, -, rfl⟩ | ⟨T, addr, -, -, rfl⟩ :=
    step_next_cases h
  · exact hI.engineTurn _ hpop
  · exact hI.takeReset _
  · exact hI.writeReg _ _ (busy_eq_false_iff.mp hidle) hpop
  · exact hI.raiseError _ _ (by decide) hpop
  · exact hI.deliver _ _ hpop

/-! ### Usable subkeys are the key schedule of KEY (10_state.md R34, R35) -/

theorem subkeysCurrent_iff_of_idle (h : s.phase = .idle) :
    SubkeysCurrent s ↔ (s.ksv = true → s.ks = keySchedule s.key) := by
  simp only [SubkeysCurrent, h]

theorem subkeysCurrent_iff_of_ksSplit (h : s.phase = .ksSplit) : SubkeysCurrent s ↔ s.ksv = false := by
  simp only [SubkeysCurrent, h]

theorem subkeysCurrent_iff_of_ksRound {i : Fin 16} (h : s.phase = .ksRound i) :
    SubkeysCurrent s ↔
      s.ksv = false ∧ (s.c, s.d) = keyHalves s.key i.val ∧ ∀ j : Fin 16, j < i → s.ks[j] = subkeyOf s.key j := by
  simp only [SubkeysCurrent, h]

/-- The phases of a cipher operation. -/
def Phase.isCipher : Phase → Bool
  | .ciInit | .ciRound _ | .ciFinal => true
  | .idle | .ksSplit | .ksRound _ => false

theorem subkeysCurrent_iff_of_isCipher (h : s.phase.isCipher = true) :
    SubkeysCurrent s ↔ s.ksv = true ∧ s.ks = keySchedule s.key := by
  cases hp : s.phase <;> rw [hp] at h
  case ciInit | ciRound | ciFinal => simp only [SubkeysCurrent, hp]
  all_goals cases h

theorem eq_keySchedule_of_entries {ks : SubkeyFile} {key : Block64} (h : ∀ j : Fin 16, ks[j] = subkeyOf key j) :
    ks = keySchedule key :=
  Vector.ext fun j hj => (h ⟨j, hj⟩).trans (getElem_keySchedule key ⟨j, hj⟩).symm

/-- Round `i+1` brings the halves to those of the rounds done. -/
theorem ksRoundStep_halves {i : Fin 16} (h : (s.c, s.d) = keyHalves s.key i.val) :
    ((ksRoundStep i s).c, (ksRoundStep i s).d) = keyHalves s.key (i.val + 1) := by
  rw [keyHalves_succ, ← h, ksRoundStep_c, ksRoundStep_d]

/-- Round `i+1` adds its entry to those that are KEY's. -/
theorem ksRoundStep_entries {i : Fin 16} (hcd : (s.c, s.d) = keyHalves s.key i.val)
    (hks : ∀ j : Fin 16, j < i → s.ks[j] = subkeyOf s.key j) :
    ∀ j : Fin 16, j.val ≤ i.val → (ksRoundStep i s).ks[j] = subkeyOf s.key j := by
  intro j hj
  by_cases hji : j = i
  · subst hji
    rw [ksRoundStep_ks_self, subkeyOf, ← ksRoundStep_halves hcd]
  · rw [ksRoundStep_ks_ne s hji]
    exact hks j (by omega)

theorem subkeysCurrent_ksRoundStep {i : Fin 16} (hp : s.phase = .ksRound i) (h : SubkeysCurrent s) :
    SubkeysCurrent (ksRoundStep i s) := by
  obtain ⟨hksv, hcd, hks⟩ := (subkeysCurrent_iff_of_ksRound hp).mp h
  have hentries := ksRoundStep_entries hcd hks
  by_cases hi : i.val + 1 < 16
  · rw [subkeysCurrent_iff_of_ksRound (ksRoundStep_phase_of_lt s hi), ksRoundStep_key]
    refine ⟨?_, ksRoundStep_halves hcd, fun j hj => hentries j (Nat.lt_succ_iff.mp hj)⟩
    rw [ksRoundStep_of_lt s hi]
    exact hksv
  · rw [subkeysCurrent_iff_of_idle (ksRoundStep_phase_of_last s hi), ksRoundStep_key]
    exact fun _ => eq_keySchedule_of_entries fun j => hentries j (by omega)

theorem subkeysCurrent_engineTurn (h : SubkeysCurrent s) : SubkeysCurrent (engineTurn s) := by
  obtain ⟨-, e⟩ | ⟨hp, e⟩ | ⟨i, hp, e⟩ | ⟨hp, e⟩ | ⟨i, hp, e⟩ | ⟨hp, e⟩ := engineTurn_cases s <;> rw [e]
  · exact h
  · have hksv := (subkeysCurrent_iff_of_ksSplit hp).mp h
    exact (subkeysCurrent_iff_of_ksRound (ksSplitStep_phase s)).mpr ⟨hksv, rfl, fun j hj => absurd hj j.not_lt_zero⟩
  · exact subkeysCurrent_ksRoundStep hp h
  · have hks := (subkeysCurrent_iff_of_isCipher (by rw [hp]; rfl)).mp h
    exact (subkeysCurrent_iff_of_isCipher rfl).mpr hks
  · have hks := (subkeysCurrent_iff_of_isCipher (by rw [hp]; rfl)).mp h
    refine (subkeysCurrent_iff_of_isCipher ?_).mpr hks
    by_cases hi : i.val + 1 < 16
    · rw [ciRoundStep_phase_of_lt s hi]; rfl
    · rw [ciRoundStep_phase_of_last s hi]; rfl
  · obtain ⟨-, hks⟩ := (subkeysCurrent_iff_of_isCipher (by rw [hp]; rfl)).mp h
    exact (subkeysCurrent_iff_of_idle (ciFinalStep_phase s)).mpr fun _ => hks

theorem subkeysCurrent_acceptKeysched (s : State) : SubkeysCurrent (acceptKeysched s) :=
  (subkeysCurrent_iff_of_ksSplit rfl).mpr rfl

theorem subkeysCurrent_kept : KeptByEveryEvent SubkeysCurrent where
  popInput _ h := h
  engineTurn _ h := subkeysCurrent_engineTurn h
  takeReset _ := (subkeysCurrent_iff_of_idle rfl).mpr fun h => absurd h Bool.false_ne_true
  writeKeyByte j b s hp _ :=
    (subkeysCurrent_iff_of_idle (s := writeKeyByte j b s) hp).mpr fun h => absurd h Bool.false_ne_true
  writeDataByte _ _ _ hp h := (subkeysCurrent_iff_of_idle hp).mpr ((subkeysCurrent_iff_of_idle hp).mp h)
  acceptKeysched s _ _ := subkeysCurrent_acceptKeysched s
  acceptCipher _ _ hp hksv h :=
    (subkeysCurrent_iff_of_isCipher rfl).mpr ⟨hksv, (subkeysCurrent_iff_of_idle hp).mp h hksv⟩
  clearError _ hp h := (subkeysCurrent_iff_of_idle hp).mpr ((subkeysCurrent_iff_of_idle hp).mp h)
  raiseError _ _ _ h := by simpa only [SubkeysCurrent, raiseError_phase, raiseError_ksv, raiseError_ks,
    raiseError_key, raiseError_c, raiseError_d] using h
  deliver _ _ h := by simpa only [SubkeysCurrent, deliver_phase, deliver_ksv, deliver_ks, deliver_key, deliver_c,
    deliver_d] using h

/-- Settles O37: a round of KEYSCHED adds its entry, a cipher operation changes neither KEY nor KS, and in IDLE a write
of KEY clears KSV. -/
theorem subkeyFileInvariantPreserved : Obligations.SubkeyFileInvariantPreserved := by
  unfold Obligations.SubkeyFileInvariantPreserved
  exact fun s t hs h => subkeysCurrent_kept.step hs h

/-! ### L and R are the halves of the rounds done (43_block_cipher.md R202) -/

theorem cipherOnTrack_iff_of_ciRound {i : Fin 16} (h : s.phase = .ciRound i) :
    CipherOnTrack s ↔ (s.l, s.r) = feistelRounds s.ks s.mode (initialHalves s.data) i.val := by
  simp only [CipherOnTrack, h]

theorem cipherOnTrack_iff_of_ciFinal (h : s.phase = .ciFinal) :
    CipherOnTrack s ↔ (s.l, s.r) = feistelRounds s.ks s.mode (initialHalves s.data) 16 := by
  simp only [CipherOnTrack, h]

/-- Outside the rounds of a cipher operation L and R hold nothing of interest. -/
theorem cipherOnTrack_of_notCipher (h : s.phase.isCipher = false) : CipherOnTrack s := by
  cases hp : s.phase <;> rw [hp] at h
  case idle | ksSplit | ksRound => simp only [CipherOnTrack, hp]
  all_goals cases h

theorem cipherOnTrack_of_ciInit (h : s.phase = .ciInit) : CipherOnTrack s := by
  simp only [CipherOnTrack, h]

theorem feistelRounds_succ (ks : SubkeyFile) (mode : Mode) (start : Half × Half) (i : Fin 16) :
    feistelRounds ks mode start (i.val + 1) =
      feistelRound (roundKey ks mode i) (feistelRounds ks mode start i.val) :=
  dif_pos i.isLt

theorem cipherOnTrack_ciRoundStep {i : Fin 16} (hp : s.phase = .ciRound i) (h : CipherOnTrack s) :
    CipherOnTrack (ciRoundStep i s) := by
  have hlr : ((ciRoundStep i s).l, (ciRoundStep i s).r) =
      feistelRounds s.ks s.mode (initialHalves s.data) (i.val + 1) := by
    rw [feistelRounds_succ, ← (cipherOnTrack_iff_of_ciRound hp).mp h]
    rfl
  by_cases hi : i.val + 1 < 16
  · exact (cipherOnTrack_iff_of_ciRound (ciRoundStep_phase_of_lt s hi)).mpr hlr
  · rw [show i.val + 1 = 16 by omega] at hlr
    exact (cipherOnTrack_iff_of_ciFinal (ciRoundStep_phase_of_last s hi)).mpr hlr

theorem cipherOnTrack_engineTurn (h : CipherOnTrack s) : CipherOnTrack (engineTurn s) := by
  obtain ⟨-, e⟩ | ⟨-, e⟩ | ⟨i, -, e⟩ | ⟨-, e⟩ | ⟨i, hp, e⟩ | ⟨-, e⟩ := engineTurn_cases s <;> rw [e]
  · exact h
  · exact cipherOnTrack_of_notCipher rfl
  · refine cipherOnTrack_of_notCipher ?_
    by_cases hi : i.val + 1 < 16
    · rw [ksRoundStep_phase_of_lt s hi]; rfl
    · rw [ksRoundStep_phase_of_last s hi]; rfl
  · exact (cipherOnTrack_iff_of_ciRound (ciInitStep_phase s)).mpr rfl
  · exact cipherOnTrack_ciRoundStep hp h
  · exact cipherOnTrack_of_notCipher rfl

theorem cipherOnTrack_kept : KeptByEveryEvent CipherOnTrack where
  popInput _ h := h
  engineTurn _ h := cipherOnTrack_engineTurn h
  takeReset _ := cipherOnTrack_of_notCipher rfl
  writeKeyByte _ _ _ hp _ := cipherOnTrack_of_notCipher (congrArg Phase.isCipher hp)
  writeDataByte _ _ _ hp _ := cipherOnTrack_of_notCipher (congrArg Phase.isCipher hp)
  acceptKeysched _ _ _ := cipherOnTrack_of_notCipher rfl
  acceptCipher _ _ _ _ _ := cipherOnTrack_of_ciInit rfl
  clearError _ hp _ := cipherOnTrack_of_notCipher (congrArg Phase.isCipher hp)
  raiseError _ _ _ h := by simpa only [CipherOnTrack, raiseError_phase, raiseError_ks, raiseError_mode,
    raiseError_data, raiseError_l, raiseError_r] using h
  deliver _ _ h := by simpa only [CipherOnTrack, deliver_phase, deliver_ks, deliver_mode, deliver_data, deliver_l,
    deliver_r] using h

/-- Settles O38: CI_INIT and the rounds follow `feistelRounds`, and no host transaction reaches DATA, KS, MODE, L or R
during an operation. -/
theorem cipherRunInvariantPreserved : Obligations.CipherRunInvariantPreserved := by
  unfold Obligations.CipherRunInvariantPreserved
  exact fun s t hs h => cipherOnTrack_kept.step hs h

/-! ### The flags (10_state.md R25, R26) -/

theorem engineTurn_done_of_busy (h : s.busy = true → s.done = false) (hbusy : (engineTurn s).busy = true) :
    (engineTurn s).done = false := by
  have hleft := mt (remaining_eq_zero_iff _).mp (busy_eq_true_iff.mp hbusy)
  rw [engineTurn_remaining] at hleft
  have hnotLast : ¬(s.phase = .ksRound 15 ∨ s.phase = .ciFinal) := by
    rintro (hp | hp) <;> rw [hp] at hleft <;> exact hleft rfl
  have hs : s.busy = true := busy_eq_true_iff.mpr fun hp => hleft (by rw [hp]; rfl)
  rw [engineTurn_done, if_neg hnotLast, h hs]

theorem statusConsistent_raiseError {e : ErrCode} (he : e ≠ .none) (h : StatusConsistent s) :
    StatusConsistent (raiseError e s) := by
  obtain ⟨herr, hdone⟩ := h
  cases hs : s.err
  · rw [raiseError_of_clear e hs]
    exact ⟨⟨fun hfalse => (Bool.noConfusion hfalse), fun hnone => absurd hnone he⟩, hdone⟩
  · rw [raiseError_of_set e hs]
    exact ⟨herr, hdone⟩

theorem statusConsistent_kept : KeptByEveryEvent StatusConsistent where
  popInput _ h := h
  engineTurn s h := by
    obtain ⟨herr, hdone⟩ := h
    exact ⟨by rw [engineTurn_err, engineTurn_errcode]; exact herr, engineTurn_done_of_busy hdone⟩
  takeReset _ := ⟨iff_of_true rfl rfl, fun _ => rfl⟩
  writeKeyByte _ _ _ _ h := h
  writeDataByte _ _ _ _ h := h
  acceptKeysched _ _ h := ⟨h.1, fun _ => rfl⟩
  acceptCipher _ _ _ _ h := ⟨h.1, fun _ => rfl⟩
  clearError _ _ h := ⟨iff_of_true rfl rfl, h.2⟩
  raiseError _ _ he h := statusConsistent_raiseError he h
  deliver _ _ h := by simpa only [StatusConsistent, State.busy, deliver_phase, deliver_err, deliver_errcode,
    deliver_done] using h

/-- Settles O39: an error is recorded with its code and cleared with it; an accepted command clears DONE, and only the
step that ends an operation sets it. -/
theorem statusInvariantPreserved : Obligations.StatusInvariantPreserved := by
  unfold Obligations.StatusInvariantPreserved
  exact fun s t hs h => statusConsistent_kept.step hs h

/-- Settles O36: after reset the block is idle, with KSV, DONE, ERR and ERRCODE clear. -/
theorem resetMeetsTheInvariants : Obligations.ResetMeetsTheInvariants := by
  unfold Obligations.ResetMeetsTheInvariants
  exact ⟨(subkeysCurrent_iff_of_idle rfl).mpr fun h => absurd h (by decide), cipherOnTrack_of_notCipher rfl,
    iff_of_true rfl rfl, fun _ => rfl⟩

/-- The last step of an operation on track writes Crypt of the block in DATA (R196, R201). -/
theorem ciFinalStep_data_of_onTrack (hp : s.phase = .ciFinal) (h : CipherOnTrack s) :
    (ciFinalStep s).data = crypt s.data s.ks s.mode := by
  rw [ciFinalStep_data, (cipherOnTrack_iff_of_ciFinal hp).mp h, crypt]

/-- Settles O40: by the two invariants the last step writes Crypt of the block under the key schedule of KEY. -/
theorem finalStepUsesTheCurrentKey : Obligations.FinalStepUsesTheCurrentKey := by
  unfold Obligations.FinalStepUsesTheCurrentKey
  intro s t hsub hcipher he hp h
  rw [step_of_engineNext he, engineTurn_of_ciFinal (s := s.popInput) hp] at h
  obtain rfl := Host.Outcome.next.inj h
  obtain ⟨-, hks⟩ := (subkeysCurrent_iff_of_isCipher (by rw [hp]; rfl)).mp hsub
  have hdata : (ciFinalStep s.popInput).data = crypt s.data (keySchedule s.key) s.mode := by
    rw [← hks]
    exact ciFinalStep_data_of_onTrack (s := s.popInput) hp hcipher
  refine ⟨fun hm => ?enc, fun hm => ?dec, rfl, rfl, rfl, rfl, rfl⟩
  case enc => rw [hdata, hm, encryptBlock]
  case dec => rw [hdata, hm, decryptBlock]

/-! ### Who writes KEY and DATA (10_state.md R20, R21) -/

@[simp] theorem performCommand_key (op : CmdOp) (s : State) : (performCommand op s).key = s.key := by
  cases op <;> simp [performCommand]

@[simp] theorem performCommand_data (op : CmdOp) (s : State) : (performCommand op s).data = s.data := by
  cases op <;> simp [performCommand]

@[simp] theorem performCommand_ks (op : CmdOp) (s : State) : (performCommand op s).ks = s.ks := by
  cases op <;> simp [performCommand]

theorem writeReg_key_cases (addr : Addr) (data : Byte) (s : State) :
    (writeReg (selectReg addr) data s).key = s.key ∨
    ∃ j, addr = keyAddr j ∧ (writeReg (selectReg addr) data s).key = setByte s.key j data := by
  obtain ⟨haddr, -, -⟩ := addr_of_selectReg addr
  obtain ⟨j, hsel, e⟩ | ⟨j, -, e⟩ | ⟨-, op, -, e⟩ | ⟨-, -, e⟩ | e := writeReg_cases (selectReg addr) data s <;> rw [e]
  · exact .inr ⟨j, haddr j hsel, rfl⟩
  all_goals exact .inl (by simp)

theorem writeReg_data_cases (addr : Addr) (data : Byte) (s : State) :
    (writeReg (selectReg addr) data s).data = s.data ∨
    ∃ j, addr = dataAddr j ∧ (writeReg (selectReg addr) data s).data = setByte s.data j data := by
  obtain ⟨-, haddr, -⟩ := addr_of_selectReg addr
  obtain ⟨j, -, e⟩ | ⟨j, hsel, e⟩ | ⟨-, op, -, e⟩ | ⟨-, -, e⟩ | e := writeReg_cases (selectReg addr) data s <;> rw [e]
  case inr.inl => exact .inr ⟨j, haddr j hsel, rfl⟩
  all_goals exact .inl (by simp)

/-- Settles O32: of the five things a step can be, a turn of the engine writes DATA in CI_FINAL only, and a taken write
sets the byte that its address names. -/
theorem keyAndDataWrittenOnlyAsRuled : Obligations.KeyAndDataWrittenOnlyAsRuled := by
  unfold Obligations.KeyAndDataWrittenOnlyAsRuled
  intro s t h
  obtain ⟨he, rfl⟩ | ⟨hr, rfl⟩ | ⟨addr, data, hw, rfl⟩ | ⟨T, addr, data, -, -, -, rfl⟩ | ⟨T, addr, -, -, rfl⟩ :=
    step_next_cases h
  · refine ⟨fun hne => absurd (engineTurn_key s.popInput) hne, fun hne => .inr (.inl ⟨he, ?_⟩)⟩
    exact of_not_not fun hp => hne (engineTurn_data_of_ne (s := s.popInput) hp)
  · exact ⟨fun _ => .inl hr, fun _ => .inl hr⟩
  · refine ⟨fun hne => .inr ?key, fun hne => .inr (.inr ?data)⟩
    case key =>
      obtain e | ⟨j, rfl, e⟩ := writeReg_key_cases addr data s.popInput
      · exact absurd e hne
      · exact ⟨j, data, hw, e⟩
    case data =>
      obtain e | ⟨j, rfl, e⟩ := writeReg_data_cases addr data s.popInput
      · exact absurd e hne
      · exact ⟨j, data, hw, e⟩
  · exact ⟨fun hne => absurd (raiseError_key _ _) hne, fun hne => absurd (raiseError_data _ _) hne⟩
  · exact ⟨fun hne => absurd (deliver_key _ _) hne, fun hne => absurd (deliver_data _ _) hne⟩

/-! ### Who writes KS and KSV (10_state.md R22, R23) -/

/-- A turn of the engine writes the entry of the round it takes and no other. -/
theorem engineTurn_ks_of_ne {i : Fin 16} (h : s.phase ≠ .ksRound i) : (engineTurn s).ks[i] = s.ks[i] := by
  obtain ⟨-, e⟩ | ⟨-, e⟩ | ⟨k, hp, e⟩ | ⟨-, e⟩ | ⟨k, -, e⟩ | ⟨-, e⟩ := engineTurn_cases s <;> rw [e]
  case inr.inr.inl => exact ksRoundStep_ks_ne s fun hik => h (hik ▸ hp)
  all_goals rfl

@[simp] theorem writeReg_ks (sel : RegSel) (data : Byte) (s : State) : (writeReg sel data s).ks = s.ks := by
  obtain ⟨j, -, e⟩ | ⟨j, -, e⟩ | ⟨-, op, -, e⟩ | ⟨-, -, e⟩ | e := writeReg_cases sel data s <;> simp [e]

/-- Settles O33: no write, refused or taken, and no read reaches KS, and a turn of the engine writes its own round's
entry. -/
theorem subkeyEntryWrittenOnlyInItsRound : Obligations.SubkeyEntryWrittenOnlyInItsRound := by
  unfold Obligations.SubkeyEntryWrittenOnlyInItsRound
  intro s t i h hne
  obtain ⟨he, rfl⟩ | ⟨hr, rfl⟩ | ⟨addr, data, -, rfl⟩ | ⟨T, addr, data, -, -, -, rfl⟩ | ⟨T, addr, -, -, rfl⟩ :=
    step_next_cases h
  · exact .inr ⟨he, of_not_not fun hp => hne (engineTurn_ks_of_ne (s := s.popInput) hp)⟩
  · exact .inl hr
  · exact absurd (by rw [writeReg_ks]; rfl) hne
  · exact absurd (by rw [raiseError_ks]; rfl) hne
  · exact absurd (by rw [deliver_ks]; rfl) hne

@[simp] theorem ksRoundStep_ksv (i : Fin 16) (s : State) : (ksRoundStep i s).ksv = if i = 15 then true else s.ksv := by
  by_cases h : i.val + 1 < 16
  · rw [ksRoundStep_of_lt s h, if_neg (by rintro rfl; exact absurd h (by decide))]; rfl
  · rw [ksRoundStep_of_last s h, if_pos (Fin.ext (by simp; omega))]; rfl

/-- KS_ROUND(16) sets KSV, and no other turn of the engine touches it. -/
theorem engineTurn_ksv (s : State) : (engineTurn s).ksv = if s.phase = .ksRound 15 then true else s.ksv := by
  obtain ⟨h, e⟩ | ⟨h, e⟩ | ⟨i, h, e⟩ | ⟨h, e⟩ | ⟨i, h, e⟩ | ⟨h, e⟩ := engineTurn_cases s <;> simp [e, h]

/-- A taken write leaves KSV as it is, or clears it as a KEY byte or KEYSCHED. -/
theorem writeReg_ksv_cases (addr : Addr) (data : Byte) (s : State) :
    (writeReg (selectReg addr) data s).ksv = s.ksv ∨
    (writeReg (selectReg addr) data s).ksv = false ∧ (addr = 0x10 ∧ data = 0x01 ∨ ∃ j, addr = keyAddr j) := by
  obtain ⟨hkey, -, hcmd⟩ := addr_of_selectReg addr
  obtain ⟨j, hsel, e⟩ | ⟨j, -, e⟩ | ⟨hsel, op, hop, e⟩ | ⟨-, -, e⟩ | e := writeReg_cases (selectReg addr) data s <;>
    rw [e]
  · exact .inr ⟨rfl, .inr ⟨j, hkey j hsel⟩⟩
  · exact .inl rfl
  · cases op with
    | keysched => exact .inr ⟨rfl, .inl ⟨hcmd hsel, hop⟩⟩
    | nop | clrerr => exact .inl rfl
    | encrypt | decrypt => exact .inl (acceptCipher_ksv s _)
  · exact .inl (raiseError_ksv s _)
  · exact .inl rfl

/-- Every way a step can leave KSV: set by the last round of KEYSCHED, cleared by reset, KEYSCHED or a KEY byte, or
unchanged. -/
theorem step_ksv_cases (h : step s = .next t) :
    (t.ksv = true ∧ s.engineNext ∧ s.phase = .ksRound 15) ∨
    (t.ksv = false ∧ (s.resetNext ∨ s.writeTakenNext 0x10 0x01 ∨
      ∃ (j : Fin 8) (b : Byte), s.writeTakenNext (keyAddr j) b)) ∨
    t.ksv = s.ksv := by
  obtain ⟨he, rfl⟩ | ⟨hr, rfl⟩ | ⟨addr, data, hw, rfl⟩ | ⟨T, addr, data, -, -, -, rfl⟩ | ⟨T, addr, -, -, rfl⟩ :=
    step_next_cases h
  · rw [engineTurn_ksv]
    split
    next hlast => exact .inl ⟨rfl, he, hlast⟩
    next => exact .inr (.inr rfl)
  · exact .inr (.inl ⟨rfl, .inl hr⟩)
  · obtain e | ⟨e, ⟨rfl, rfl⟩ | ⟨j, rfl⟩⟩ := writeReg_ksv_cases addr data s.popInput
    · exact .inr (.inr e)
    · exact .inr (.inl ⟨e, .inr (.inl hw)⟩)
    · exact .inr (.inl ⟨e, .inr (.inr ⟨j, data, hw⟩)⟩)
  · exact .inr (.inr (raiseError_ksv _ _))
  · exact .inr (.inr (deliver_ksv _ _))

/-- Settles O34: the two clauses are the two ways a step can change KSV. -/
theorem subkeysValidChangesOnlyAsRuled : Obligations.SubkeysValidChangesOnlyAsRuled := by
  unfold Obligations.SubkeysValidChangesOnlyAsRuled
  intro s t h
  obtain ⟨ht, hset⟩ | ⟨ht, hclear⟩ | e := step_ksv_cases h
  · exact ⟨fun _ _ => hset, fun _ hfalse => absurd hfalse (by simp [ht])⟩
  · exact ⟨fun _ htrue => absurd htrue (by simp [ht]), fun _ _ => hclear⟩
  · exact ⟨fun hs ht => absurd (hs.symm.trans e.symm) (by simp [ht]),
      fun hs ht => absurd (hs.symm.trans e.symm) (by simp [ht])⟩

end Sys2Proof.Machine
end

section
/-! Rotations, table gathers and complements bit by bit (40_bit_engines.md §§3 and 5), and what follows for the key
schedule and the round function (41_key_scheduler.md §§1 and 2, 42_round_function.md §§1, 4 and 5), with the settled
statements on them. -/

namespace Sys2Proof.Machine

variable {n m : Nat}

/-! ### Rotation (R105) -/

theorem rotl_rotl (v : BitVec n) (a b : Nat) : rotl (rotl v a) b = rotl v (a + b) := by
  induction a generalizing v with
  | zero => rw [rotl_zero, Nat.zero_add]
  | succ a ih => rw [rotl_succ, ih, Nat.succ_add, rotl_succ]

theorem bitAt_rot1_mod (v : BitVec n) {i : Nat} (hi : i < n) : bitAt (rot1 v) (i + 1) = bitAt v ((i + 1) % n + 1) := by
  rw [bitAt_rot1 v i hi]
  split
  next h => rw [Nat.mod_eq_of_lt h]
  next h => rw [show i + 1 = n by omega, Nat.mod_self]

theorem bitAt_rotl (v : BitVec n) (k : Nat) {i : Nat} (hi : i < n) :
    bitAt (rotl v k) (i + 1) = bitAt v ((i + k) % n + 1) := by
  induction k generalizing v with
  | zero => rw [rotl_zero, Nat.mod_eq_of_lt (show i + 0 < n from hi)]
  | succ k ih => rw [rotl_succ, ih, bitAt_rot1_mod v (Nat.mod_lt _ (by omega)), Nat.mod_add_mod, Nat.add_assoc]

theorem rotl_width (v : BitVec n) : rotl v n = v :=
  eq_of_bitAt_eq fun i hi => by rw [bitAt_rotl v n hi, Nat.add_mod_right, Nat.mod_eq_of_lt hi]

/-- Settles O48: counts add up by the recursion of `rotl`, and each single rotation moves every bit one place. -/
theorem rotationClosedFormAndComposition : Obligations.RotationClosedFormAndComposition := by
  unfold Obligations.RotationClosedFormAndComposition
  refine fun n v => ⟨fun k i h1 hn => ?_, rotl_rotl v, rotl_zero v, rotl_width v⟩
  obtain ⟨i, rfl⟩ := Nat.exists_eq_add_of_le' h1
  exact bitAt_rotl v k hn

/-- The halves of round `r` are the round-0 halves rotated by the sum of the first `r` shifts (R136). -/
theorem keyHalves_eq_rotl (key : Block64) {r : Nat} (hr : r ≤ 16) :
    keyHalves key r = (rotl (applyTable pc1c key) (shiftSchedule.toList.take r).sum,
      rotl (applyTable pc1d key) (shiftSchedule.toList.take r).sum) := by
  induction r with
  | zero => rfl
  | succ r ih =>
    have hsum : (shiftSchedule.toList.take (r + 1)).sum = (shiftSchedule.toList.take r).sum + shiftSchedule[r] := by
      rw [List.sum_take_succ _ _ (by simpa using hr)]
      rfl
    rw [keyHalves_succ key ⟨r, hr⟩, ih (by omega), hsum, rotl_rotl, rotl_rotl]
    rfl

theorem sum_shiftSchedule : (shiftSchedule.toList.take 16).sum = 28 := by decide

/-- Settles O53: the shifts of sixteen rounds add up to the width of a half. -/
theorem keyHalvesRotateCumulatively : Obligations.KeyHalvesRotateCumulatively := by
  unfold Obligations.KeyHalvesRotateCumulatively
  intro key
  refine ⟨fun r hr => keyHalves_eq_rotl key hr, ?_⟩
  rw [keyHalves_eq_rotl key (le_refl 16), sum_shiftSchedule, rotl_width, rotl_width, keyHalves]

/-! ### What a table reads (R103, R110) -/

/-- Settles O49: the validity of each table is carried by it, and the rest is checked entry by entry. -/
theorem fixedTablesAreValid : Obligations.FixedTablesAreValid := by
  unfold Obligations.FixedTablesAreValid
  refine ⟨ipTable.valid, fpTable.valid, pc1c.valid, pc1d.valid, pc2.valid, eTable.valid, pTable.valid, ?_, ?_, ?_, ?_,
    ?_, ?_, ?_⟩
  all_goals decide

/-- Values that agree in the bits that a table names give the same result. -/
theorem applyTable_congr (T : PermTable n m) {u v : BitVec n} (h : ∀ e ∈ T.entries.toList, bitAt u e = bitAt v e) :
    applyTable T u = applyTable T v :=
  eq_of_bitAt_eq fun i hi => by rw [bitAt_applyTable T u i hi, bitAt_applyTable T v i hi, h _ (by simp)]

theorem applyTable_not (T : PermTable n m) (v : BitVec n) : applyTable T (~~~v) = ~~~(applyTable T v) :=
  eq_of_bitAt_eq fun i hi => by
    rw [bitAt_applyTable T _ i hi, bitAt_not v _ (entry_in_range T.valid i hi), bitAt_not _ _ ⟨by omega, hi⟩,
      bitAt_applyTable T v i hi]

/-- A table that reads every bit from where another table has put it undoes that table. -/
theorem applyTable_applyTable_of_inverse {T U : PermTable n n}
    (h : ∀ i : Fin n, U.entries.toList[T.entries[i] - 1]? = some (i.val + 1)) (v : BitVec n) :
    applyTable T (applyTable U v) = v := by
  refine eq_of_bitAt_eq fun i hi => ?_
  obtain ⟨h1, hn⟩ := entry_in_range T.valid i hi
  obtain ⟨k, hk⟩ := Nat.exists_eq_add_of_le' h1
  have hU : U.entries[k]? = some (i + 1) := by simpa [hk] using h ⟨i, hi⟩
  obtain ⟨hkn, hU⟩ := Vector.getElem?_eq_some_iff.mp hU
  rw [bitAt_applyTable T _ i hi, hk, bitAt_applyTable U v k hkn, hU]

/-- The bit of the result at a table's position is the bit that the entry there names. -/
theorem bitAt_applyTable_of_getElem? (T : PermTable n m) (v : BitVec n) {i e : Nat}
    (h : T.entries.toList[i]? = some e) :
    bitAt (applyTable T v) (i + 1) = bitAt v e := by
  rw [Vector.getElem?_toList] at h
  obtain ⟨hi, rfl⟩ := Vector.getElem?_eq_some_iff.mp h
  exact bitAt_applyTable T v i hi

/-! ### The parity bits of a key (41_key_scheduler.md §1) -/

/-- Keys that agree off the multiples of 8 have the same round-0 halves, and so the same halves in every round. -/
theorem keyHalves_congr {k k' : Block64} (h : ∀ i, 1 ≤ i → i ≤ 64 → i % 8 ≠ 0 → bitAt k i = bitAt k' i) (r : Nat) :
    keyHalves k r = keyHalves k' r := by
  obtain ⟨-, -, -, -, -, -, -, -, -, -, -, -, hparity, -⟩ := fixedTablesAreValid
  induction r with
  | zero =>
    have hc : applyTable pc1c k = applyTable pc1c k' := applyTable_congr pc1c fun e he => by
      obtain ⟨i, hi, rfl⟩ := Vector.mem_iff_getElem.mp (Vector.mem_toList_iff.mp he)
      obtain ⟨h1, hn⟩ := entry_in_range pc1c.valid i hi
      exact h _ h1 hn (hparity _ (List.mem_append_left _ he))
    have hd : applyTable pc1d k = applyTable pc1d k' := applyTable_congr pc1d fun e he => by
      obtain ⟨i, hi, rfl⟩ := Vector.mem_iff_getElem.mp (Vector.mem_toList_iff.mp he)
      obtain ⟨h1, hn⟩ := entry_in_range pc1d.valid i hi
      exact h _ h1 hn (hparity _ (List.mem_append_right _ he))
    rw [keyHalves, keyHalves, hc, hd]
  | succ r ih => rw [keyHalves, keyHalves, ih]

/-- Settles O54: PC-1 names no parity bit, and all that depends on the key depends on it through PC-1. -/
theorem parityBitsDoNotReachTheSubkeys : Obligations.ParityBitsDoNotReachTheSubkeys := by
  unfold Obligations.ParityBitsDoNotReachTheSubkeys
  intro k k' h
  have hks : keySchedule k = keySchedule k' :=
    eq_keySchedule_of_entries fun j => by rw [getElem_keySchedule, subkeyOf, keyHalves_congr h, ← subkeyOf]
  refine ⟨hks, fun x => ⟨?_, ?_⟩⟩
  · rw [encryptBlock, hks, ← encryptBlock]
  · rw [decryptBlock, hks, ← decryptBlock]

/-! ### The round function (42_round_function.md) -/

theorem expand_not (x : Half) : expand (~~~x) = ~~~(expand x) := applyTable_not eTable x

/-- F depends on its arguments through E(Rin) xor K only (R176). -/
theorem roundF_congr {x x' : Half} {k k' : Subkey} (h : expand x ^^^ k = expand x' ^^^ k') :
    roundF x k = roundF x' k' :=
  congrArg (fun v => applyTable pTable (sboxLayer v)) h

theorem roundF_not (x : Half) (k : Subkey) : roundF (~~~x) (~~~k) = roundF x k :=
  roundF_congr (by rw [expand_not, ← BitVec.not_xor_left, ← BitVec.not_xor_right, BitVec.not_not])

/-- The column is the value of the four middle bits of the segment (R164). -/
theorem toNat_slice_middle (seg : BitVec 6) : (slice seg 2 4).toNat = sboxCol seg := by
  revert seg
  decide

/-- Settles O51: E and P are their tables' gathers, F is P of the S-box layer of E(Rin) xor K, and E commutes with
complement. -/
theorem roundFunctionOfComplements : Obligations.RoundFunctionOfComplements := by
  unfold Obligations.RoundFunctionOfComplements
  refine ⟨fun x i e he => bitAt_applyTable_of_getElem? eTable x he,
    fun y i p hp => ⟨bitAt_applyTable_of_getElem? pTable y hp, fun x k => bitAt_applyTable_of_getElem? pTable _ hp⟩,
    fun x k => ⟨sboxLayer (mixKey x k), rfl, ?lookup⟩, ?zero, ?worked, roundF_not, fun x x' k k' => roundF_congr,
    ?pOnce⟩
  case lookup =>
    rintro b seg rfl
    rw [toNat_slice_middle, slice_sboxLayer]
    exact sbox_getElem?_eq_substitute _ b
  case zero => decide +kernel
  case worked => decide +kernel
  case pOnce =>
    have hP : ∀ j : Fin 32, pTable.entries.toList.count (j.val + 1) = 1 := by decide
    intro j h1 hn
    obtain ⟨j, rfl⟩ := Nat.exists_eq_add_of_le' h1
    exact hP ⟨j, hn⟩

end Sys2Proof.Machine
end

section
/-! The block cipher as a function: FP undoes IP, the rounds run backwards undo the rounds, and complements go through
(43_block_cipher.md §§1 and 4, 95_test_vectors.md V18, 44_host_interface.md §5), with the settled statements on it. -/

namespace Sys2Proof.Machine

variable {n m : Nat}

/-! ### FP and IP (R191) -/

theorem applyTable_fp_ip (x : Block64) : applyTable fpTable (applyTable ipTable x) = x :=
  applyTable_applyTable_of_inverse (by decide) x

theorem applyTable_ip_fp (x : Block64) : applyTable ipTable (applyTable fpTable x) = x :=
  applyTable_applyTable_of_inverse (by decide) x

/-- Settles O55: each of the two tables reads every bit from where the other has put it. -/
theorem finalPermutationInvertsInitial : Obligations.FinalPermutationInvertsInitial := by
  unfold Obligations.FinalPermutationInvertsInitial
  exact fun x => ⟨applyTable_fp_ip x, applyTable_ip_fp x⟩

/-! ### The round trip (R203) -/

/-- The halves of a block after FP and then IP are the exchanged ones. -/
theorem initialHalves_finalBlock (lr : Half × Half) : initialHalves (finalBlock lr) = lr.swap := by
  have hip : applyTable ipTable (finalBlock lr) = concat lr.2 lr.1 := applyTable_ip_fp _
  rw [initialHalves, hip, concat, slice_cast, slice_cast, slice_append_left _ _ (by decide), slice_all,
    slice_append_right _ _ rfl, Prod.swap]

theorem concat_slices (v : Block64) : concat (slice v 1 32) (slice v 33 32) = v := by
  have happend : (v.extractLsb' 32 32 ++ v.extractLsb' 0 32 : Block64) = v.extractLsb' 0 64 :=
    BitVec.extractLsb'_append_extractLsb'_eq_extractLsb' rfl
  rw [BitVec.extractLsb'_eq_self] at happend
  exact happend

theorem finalBlock_swap_initialHalves (x : Block64) : finalBlock (initialHalves x).swap = x := by
  rw [finalBlock, initialHalves, Prod.swap, concat_slices, applyTable_fp_ip]

/-- The round of the exchanged halves takes back the round (R193). -/
theorem feistelRound_swap_feistelRound (k : Subkey) (lr : Half × Half) :
    feistelRound k (feistelRound k lr).swap = lr.swap := by
  obtain ⟨l, r⟩ := lr
  simp only [feistelRound, Prod.swap, BitVec.xor_assoc, BitVec.xor_self, BitVec.xor_zero]

/-- The other mode. -/
def Mode.opposite : Mode → Mode
  | .enc => .dec
  | .dec => .enc

/-- The other mode takes the subkeys in the opposite order (R194). -/
theorem roundKey_opposite (ks : SubkeyFile) (mode : Mode) (i : Fin 16) :
    roundKey ks mode.opposite i = roundKey ks mode i.rev := by
  cases mode with
  | enc => rfl
  | dec => simp only [Mode.opposite, roundKey, Fin.rev_rev]

/-- `r` rounds of the other mode, from the exchanged halves after sixteen, take back the last `r` rounds. -/
theorem feistelRounds_opposite (ks : SubkeyFile) (mode : Mode) (start : Half × Half) {r : Nat} (hr : r ≤ 16) :
    feistelRounds ks mode.opposite (feistelRounds ks mode start 16).swap r =
      (feistelRounds ks mode start (16 - r)).swap := by
  induction r with
  | zero => rfl
  | succ r ih =>
    have hrev : 16 - r = (Fin.rev ⟨r, hr⟩ : Fin 16).val + 1 := by simp only [Fin.val_rev]; omega
    have hleft : 16 - (r + 1) = (Fin.rev ⟨r, hr⟩ : Fin 16).val := by rw [Fin.val_rev]
    rw [feistelRounds_succ ks _ _ ⟨r, hr⟩, ih (by omega), hrev, feistelRounds_succ, roundKey_opposite,
      feistelRound_swap_feistelRound, hleft]

theorem crypt_opposite_crypt (x : Block64) (ks : SubkeyFile) (mode : Mode) :
    crypt (crypt x ks mode) ks mode.opposite = x := by
  rw [crypt, crypt, initialHalves_finalBlock, feistelRounds_opposite ks mode _ (le_refl 16), Nat.sub_self,
    feistelRounds, finalBlock_swap_initialHalves]

theorem decryptBlock_encryptBlock (x key : Block64) : decryptBlock (encryptBlock x key) key = x :=
  crypt_opposite_crypt x (keySchedule key) .enc

/-- Settles O56: the other mode takes back the rounds one by one, and the two permutations undo each other. -/
theorem decryptUndoesEncrypt : Obligations.DecryptUndoesEncrypt := by
  unfold Obligations.DecryptUndoesEncrypt
  exact ⟨fun x ks => ⟨crypt_opposite_crypt x ks .enc, crypt_opposite_crypt x ks .dec⟩, decryptBlock_encryptBlock⟩

/-! ### Complements (V18) -/

theorem concat_not {k : Nat} (a : BitVec m) (b : BitVec n) (h : m + n = k) :
    concat (~~~a) (~~~b) h = ~~~(concat a b h) := by
  subst h
  exact BitVec.not_append.symm

theorem slice_not (v : BitVec n) {a w : Nat} (ha : 1 ≤ a) (hw : a + w ≤ n + 1) : slice (~~~v) a w = ~~~(slice v a w) :=
  eq_of_bitAt_eq fun i hi => by
    rw [bitAt_slice _ a w i ha hw hi, bitAt_not v _ (by omega), bitAt_not _ _ ⟨by omega, hi⟩,
      bitAt_slice v a w i ha hw hi]

theorem rotl_not (v : BitVec n) (k : Nat) : rotl (~~~v) k = ~~~(rotl v k) :=
  eq_of_bitAt_eq fun i hi => by
    have hlt := Nat.mod_lt (i + k) (Nat.zero_lt_of_lt hi)
    rw [bitAt_rotl _ k hi, bitAt_not v _ ⟨by omega, hlt⟩, bitAt_not _ _ ⟨by omega, hi⟩, bitAt_rotl v k hi]

/-- Both halves complemented. -/
def complementHalves {w : Nat} (p : BitVec w × BitVec w) : BitVec w × BitVec w := (~~~p.1, ~~~p.2)

theorem keyHalves_not (key : Block64) (r : Nat) : keyHalves (~~~key) r = complementHalves (keyHalves key r) := by
  induction r with
  | zero => rw [keyHalves, applyTable_not, applyTable_not]; rfl
  | succ r ih =>
    simp only [keyHalves, ih]
    split
    · simp only [complementHalves, rotl_not]
    · rfl

theorem subkeyOf_not (key : Block64) (i : Fin 16) : subkeyOf (~~~key) i = ~~~(subkeyOf key i) := by
  rw [subkeyOf, keyHalves_not, compress, complementHalves, concat_not, applyTable_not]
  rfl

theorem roundKey_keySchedule_not (key : Block64) (mode : Mode) (i : Fin 16) :
    roundKey (keySchedule (~~~key)) mode i = ~~~(roundKey (keySchedule key) mode i) := by
  have hentry (j : Fin 16) : (keySchedule (~~~key))[j] = ~~~(keySchedule key)[j] := by
    rw [getElem_keySchedule, getElem_keySchedule, subkeyOf_not]
  cases mode with
  | enc => exact hentry i
  | dec => exact hentry i.rev

/-- F is the same of the complements, so a round of the complements is the complement of the round. -/
theorem feistelRound_not (k : Subkey) (lr : Half × Half) :
    feistelRound (~~~k) (complementHalves lr) = complementHalves (feistelRound k lr) := by
  simp only [feistelRound, complementHalves, roundF_not, BitVec.not_xor_left]

theorem feistelRounds_not (key : Block64) (mode : Mode) (start : Half × Half) {r : Nat} (hr : r ≤ 16) :
    feistelRounds (keySchedule (~~~key)) mode (complementHalves start) r =
      complementHalves (feistelRounds (keySchedule key) mode start r) := by
  induction r with
  | zero => rfl
  | succ r ih =>
    rw [feistelRounds_succ _ _ _ ⟨r, hr⟩, feistelRounds_succ _ _ _ ⟨r, hr⟩, ih (by omega), roundKey_keySchedule_not,
      feistelRound_not]

theorem initialHalves_not (x : Block64) : initialHalves (~~~x) = complementHalves (initialHalves x) := by
  rw [initialHalves, applyTable_not, slice_not _ (by decide) (by decide), slice_not _ (by decide) (by decide)]
  rfl

theorem finalBlock_not (lr : Half × Half) : finalBlock (complementHalves lr) = ~~~(finalBlock lr) := by
  rw [finalBlock, complementHalves, concat_not, applyTable_not, ← finalBlock]

/-- Settles O57: the complement goes through IP, every round of the complemented subkeys, and FP. -/
theorem complementationProperty : Obligations.ComplementationProperty := by
  unfold Obligations.ComplementationProperty
  intro x key
  rw [encryptBlock, crypt, initialHalves_not, feistelRounds_not _ _ _ (le_refl 16), finalBlock_not, ← crypt,
    ← encryptBlock]

/-! ### Padding and stripping (44_host_interface.md R241, R242) -/

theorem padBlock_of_fits {bytes : List Byte} (hne : bytes ≠ []) (h : bytes.length ≤ 8) :
    padBlock bytes = .ok (some (packBytes bytes)) := by
  rw [padBlock, hostBlockFits, if_pos (decide_eq_true h), if_neg (by simpa using hne)]

/-- The bytes of a packed block are the bytes of the list and then zeros. -/
theorem unpackBytes_packBytes {bytes : List Byte} (h : bytes.length ≤ 8) :
    unpackBytes (packBytes bytes) = bytes ++ List.replicate (8 - bytes.length) 0x00 := by
  refine List.ext_getElem (by simp [unpackBytes]; omega) fun j hj _ => ?_
  have hj8 : j < 8 := by simpa [unpackBytes] using hj
  have hbyte : byteOf (packBytes bytes) j = bytes.getD j 0x00 := byteOf_packBytes bytes ⟨j, hj8⟩
  simp only [unpackBytes, List.getElem_map, List.getElem_range, List.getElem_append, List.getElem_replicate, hbyte]
  split
  next hlt => exact (List.getElem_eq_getD 0x00).symm
  next hge => exact List.getD_eq_default _ _ (Nat.not_lt.mp hge)

theorem dropWhile_zero_replicate (n : Nat) (bytes : List Byte) :
    (List.replicate n (0x00 : Byte) ++ bytes).dropWhile (fun b => b == 0) = bytes.dropWhile (fun b => b == 0) :=
  List.dropWhile_append_of_pos fun b hb => by simp [List.eq_of_mem_replicate hb]

/-- Stripping gives back a block that did not end with a zero byte. -/
theorem stripPadding_packBytes {bytes : List Byte} {b : Byte} (h : bytes.length + 1 ≤ 8) (hb : b ≠ 0x00) :
    stripPadding (packBytes (bytes ++ [b])) = bytes ++ [b] := by
  rw [stripPadding, unpackBytes_packBytes (by simpa using h), List.reverse_append, List.reverse_replicate,
    dropWhile_zero_replicate, List.reverse_append, List.reverse_singleton, List.singleton_append,
    List.dropWhile_cons_of_neg (by simpa using hb), List.reverse_cons, List.reverse_reverse]

/-- Settles O59: decryption gives the padded block back, and its padding is what stripping takes off. -/
theorem paddedBlockSurvivesTheRoundTrip : Obligations.PaddedBlockSurvivesTheRoundTrip := by
  unfold Obligations.PaddedBlockSurvivesTheRoundTrip
  intro bytes b key h hb
  refine ⟨packBytes (bytes ++ [b]), padBlock_of_fits (by simp) (by simpa using h), ?_⟩
  rw [decryptBlock_encryptBlock, stripPadding_packBytes h hb]

end Sys2Proof.Machine
end

section
/-! Runs of several steps: the writes that load a register, an operation under every interleaving, an operation left
alone, and two runs that a host cannot tell apart (70_reset_and_hazards.md §§1 to 4, 30_encoding.md R77,
41_key_scheduler.md R141, 43_block_cipher.md R202), with the settled statements on them. -/

namespace Sys2Proof.Machine

variable {s t : State} {rest : List Input}

/-! ### Eight byte writes (30_encoding.md R77) -/

/-- A value with the named bytes taken from `v`. -/
def setBytes (v : Block64) (js : List (Fin 8)) (u : Block64) : Block64 :=
  js.foldl (fun u j => setByte u j (byteOf v j.val)) u

theorem byteOf_setBytes (v : Block64) (js : List (Fin 8)) (u : Block64) (i : Fin 8) :
    byteOf (setBytes v js u) i.val = if i ∈ js then byteOf v i.val else byteOf u i.val := by
  induction js generalizing u with
  | nil => rfl
  | cons j js ih =>
    rw [setBytes, List.foldl_cons, ← setBytes, ih, byteOf_setByte]
    by_cases hj : i = j <;> simp [hj]

theorem setBytes_all (v u : Block64) : setBytes v (List.finRange 8) u = v :=
  eq_of_byteOf_eq fun i => by rw [byteOf_setBytes, if_pos (List.mem_finRange i)]

/-- The block after the named bytes of `v` are written, in order, to the registers at `addr`, each write taken. -/
def writeBytes (addr : Fin 8 → Addr) (v : Block64) (js : List (Fin 8)) (s : State) : State :=
  js.foldl (fun t j => writeReg (selectReg (addr j)) (byteOf v j.val) t) s

theorem writeBytes_cons (addr : Fin 8 → Addr) (v : Block64) (j : Fin 8) (js : List (Fin 8)) (s : State) :
    writeBytes addr v (j :: js) s = writeBytes addr v js (writeReg (selectReg (addr j)) (byteOf v j.val) s) := rfl

theorem writeBytes_dataAddr (v : Block64) (js : List (Fin 8)) (s : State) :
    writeBytes dataAddr v js s = { s with data := setBytes v js s.data } := by
  induction js generalizing s with
  | nil => rfl
  | cons j js ih => rw [writeBytes_cons, selectReg_dataAddr, ih]; rfl

theorem writeBytes_keyAddr_cons (v : Block64) (j : Fin 8) (js : List (Fin 8)) (s : State) :
    writeBytes keyAddr v (j :: js) s = { s with key := setBytes v (j :: js) s.key, ksv := false } := by
  induction js generalizing j s with
  | nil => rw [writeBytes_cons, selectReg_keyAddr]; rfl
  | cons k js ih => rw [writeBytes_cons, selectReg_keyAddr, ih]; rfl

/-- `WRDATA v`, its writes taken, loads the block. -/
theorem writeBytes_dataAddr_all (v : Block64) (s : State) :
    writeBytes dataAddr v (List.finRange 8) s = { s with data := v } := by
  rw [writeBytes_dataAddr, setBytes_all]

/-- `WRKEY v`, its writes taken, loads the key and clears KSV. -/
theorem writeBytes_keyAddr_all (v : Block64) (s : State) :
    writeBytes keyAddr v (List.finRange 8) s = { s with key := v, ksv := false } := by
  have hcons : List.finRange 8 = 0 :: (List.finRange 8).tail := rfl
  rw [hcons, writeBytes_keyAddr_cons, ← hcons, setBytes_all]

/-- A write that is no command keeps the phase. -/
theorem writeReg_phase_of_ne_cmd {sel : RegSel} (hsel : sel ≠ .cmd) (data : Byte) (s : State) :
    (writeReg sel data s).phase = s.phase := by
  cases sel with
  | cmd => exact absurd rfl hsel
  | key | data | status | errcode | window | unmapped => rfl

/-- A write that is no command neither reads nor writes the events of the run. -/
theorem writeReg_setInputs_of_ne_cmd {sel : RegSel} (hsel : sel ≠ .cmd) (data : Byte) (s : State)
    (inputs : List Input) :
    writeReg sel data { s with inputs := inputs } = { writeReg sel data s with inputs := inputs } := by
  cases sel with
  | cmd => exact absurd rfl hsel
  | key | data | status | errcode | window | unmapped => rfl

/-- A run of byte writes from an idle state performs them all, in order. -/
theorem run_writeBytes {addr : Fin 8 → Addr} (haddr : ∀ j, selectReg (addr j) ≠ .cmd) (v : Block64)
    (js : List (Fin 8)) (hidle : s.busy = false)
    (h : s.inputs = transactions (js.map fun j => .wr (addr j) (byteOf v j.val)) ++ rest) :
    run js.length s = .next (writeBytes addr v js { s with inputs := rest }) := by
  induction js generalizing s with
  | nil =>
    have hs : { s with inputs := rest } = s := by rw [← show s.inputs = rest from h]
    rw [hs]
    rfl
  | cons j js ih =>
    have hw : s.writeTakenNext (addr j) (byteOf v j.val) := ⟨hidle, _, ⟨_, h⟩, decodeBus_transaction_wr _ _⟩
    have hidle' : (writeReg (selectReg (addr j)) (byteOf v j.val) s.popInput).busy = false :=
      busy_eq_false_iff.mpr ((writeReg_phase_of_ne_cmd (haddr j) _ _).trans (busy_eq_false_iff.mp hidle))
    have hpop := writeReg_setInputs_of_ne_cmd (haddr j) (byteOf v j.val) s
    rw [List.length_cons, run, step_of_writeTakenNext hw]
    refine (ih hidle' ?_).trans ?_
    · rw [State.popInput, hpop s.inputs.tail, h]; rfl
    · rw [State.popInput, hpop s.inputs.tail, writeBytes_cons, hpop rest]

theorem selectReg_keyAddr_ne_cmd (j : Fin 8) : selectReg (keyAddr j) ≠ .cmd := by
  rw [selectReg_keyAddr]; exact RegSel.noConfusion

theorem selectReg_dataAddr_ne_cmd (j : Fin 8) : selectReg (dataAddr j) ≠ .cmd := by
  rw [selectReg_dataAddr]; exact RegSel.noConfusion

/-- Settles O14: the eight writes are taken one after another, and together they name every byte of the register. -/
theorem eightByteWritesLoadARegister : Obligations.EightByteWritesLoadARegister := by
  unfold Obligations.EightByteWritesLoadARegister
  refine fun s v rest hidle => ⟨fun h => ?key, fun h => ?data⟩
  case key =>
    have hrun := run_writeBytes selectReg_keyAddr_ne_cmd v _ hidle h
    rw [writeBytes_keyAddr_all] at hrun
    exact hrun
  case data =>
    have hrun := run_writeBytes selectReg_dataAddr_ne_cmd v _ hidle h
    rw [writeBytes_dataAddr_all] at hrun
    exact hrun

/-! ### Turns of the engine, one after another -/

theorem engineTurns_succ (n : Nat) (s : State) : engineTurns (n + 1) s = engineTurn (engineTurns n s) := by
  induction n generalizing s with
  | zero => rfl
  | succ n ih => rw [engineTurns, ih, ← engineTurns]

theorem engineTurns_keeps {I : State → Prop} (hI : ∀ s, I s → I (engineTurn s)) (n : Nat) (h : I s) :
    I (engineTurns n s) := by
  induction n with
  | zero => exact h
  | succ n ih => rw [engineTurns_succ]; exact hI _ ih

theorem engineTurns_remaining (n : Nat) (s : State) : (engineTurns n s).phase.remaining = s.phase.remaining - n := by
  induction n with
  | zero => rfl
  | succ n ih => rw [engineTurns_succ, engineTurn_remaining, ih, Nat.sub_sub]

theorem engineTurns_phase_of_remaining_le {n : Nat} (h : s.phase.remaining ≤ n) : (engineTurns n s).phase = .idle := by
  rw [← remaining_eq_zero_iff, engineTurns_remaining, Nat.sub_eq_zero_of_le h]

/-- Turns beyond the end of the operation change nothing. -/
theorem engineTurns_of_remaining_le {n : Nat} (h : s.phase.remaining ≤ n) :
    engineTurns n s = engineTurns s.phase.remaining s := by
  induction n, h using Nat.le_induction with
  | base => rfl
  | succ n hn ih => rw [engineTurns_succ, engineTurn_of_idle (engineTurns_phase_of_remaining_le hn), ih]

/-! ### A whole KEYSCHED (41_key_scheduler.md R141) -/

/-- A turn outside a cipher operation does not start one, and leaves DATA, L, R and MODE alone. -/
theorem engineTurn_of_notCipher (h : s.phase.isCipher = false) :
    (engineTurn s).phase.isCipher = false ∧ (engineTurn s).data = s.data ∧ (engineTurn s).l = s.l ∧
    (engineTurn s).r = s.r ∧ (engineTurn s).mode = s.mode := by
  obtain ⟨-, e⟩ | ⟨-, e⟩ | ⟨i, -, e⟩ | ⟨hp, -⟩ | ⟨i, hp, -⟩ | ⟨hp, -⟩ := engineTurn_cases s
  case inr.inr.inr.inl | inr.inr.inr.inr.inl | inr.inr.inr.inr.inr => rw [hp] at h; cases h
  · rw [e]; exact ⟨h, rfl, rfl, rfl, rfl⟩
  · rw [e]; exact ⟨rfl, rfl, rfl, rfl, rfl⟩
  · rw [e]
    refine ⟨?_, ksRoundStep_data s i, ksRoundStep_l s i, ksRoundStep_r s i, ksRoundStep_mode s i⟩
    by_cases hi : i.val + 1 < 16
    · rw [ksRoundStep_phase_of_lt s hi]; rfl
    · rw [ksRoundStep_phase_of_last s hi]; rfl

theorem engineTurns_of_notCipher (n : Nat) (h : s.phase.isCipher = false) :
    (engineTurns n s).phase.isCipher = false ∧ (engineTurns n s).data = s.data ∧ (engineTurns n s).l = s.l ∧
    (engineTurns n s).r = s.r ∧ (engineTurns n s).mode = s.mode :=
  engineTurns_keeps (I := fun u => u.phase.isCipher = false ∧ u.data = s.data ∧ u.l = s.l ∧ u.r = s.r ∧ u.mode = s.mode)
    (fun u ⟨hp, hdata, hl, hr, hmode⟩ => by
      rw [← hdata, ← hl, ← hr, ← hmode]
      exact engineTurn_of_notCipher hp) n ⟨h, rfl, rfl, rfl, rfl⟩

theorem engineTurns_key (n : Nat) (s : State) : (engineTurns n s).key = s.key :=
  engineTurns_keeps (I := fun u => u.key = s.key) (fun u hu => (engineTurn_key u).trans hu) n rfl

theorem phase_eq_of_remaining_eq_one {p : Phase} (h : p.remaining = 1) :
    p = if p.isCipher then .ciFinal else .ksRound 15 := by
  cases p with
  | idle | ksSplit | ciInit => cases h
  | ksRound i =>
    simp only [Phase.remaining] at h
    exact congrArg Phase.ksRound (Fin.ext (by simp; omega))
  | ciRound i => simp only [Phase.remaining] at h; omega
  | ciFinal => rfl

/-- The engine, given its seventeen turns, completes an accepted KEYSCHED. -/
theorem engineTurns_of_ksSplit (hp : s.phase = .ksSplit) (hksv : s.ksv = false) :
    (engineTurns 17 s).ks = keySchedule s.key ∧ (engineTurns 17 s).ksv = true ∧ (engineTurns 17 s).done = true ∧
    (engineTurns 17 s).phase = .idle := by
  have hcurrent : SubkeysCurrent (engineTurns 17 s) :=
    engineTurns_keeps (I := SubkeysCurrent) (fun _ => subkeysCurrent_engineTurn) 17
      ((subkeysCurrent_iff_of_ksSplit hp).mpr hksv)
  have hidle : (engineTurns 17 s).phase = .idle := engineTurns_phase_of_remaining_le (by rw [hp]; exact le_refl 17)
  have hlast : (engineTurns 16 s).phase = .ksRound 15 := by
    obtain ⟨hkind, -⟩ := engineTurns_of_notCipher (s := s) 16 (by rw [hp]; rfl)
    rw [phase_eq_of_remaining_eq_one (p := (engineTurns 16 s).phase) (by rw [engineTurns_remaining, hp]; rfl), hkind]
    rfl
  have hksv' : (engineTurns 17 s).ksv = true := by rw [engineTurns_succ, engineTurn_ksv, if_pos hlast]
  have hdone : (engineTurns 17 s).done = true := by rw [engineTurns_succ, engineTurn_done, if_pos (.inl hlast)]
  refine ⟨?_, hksv', hdone, hidle⟩
  rw [(subkeysCurrent_iff_of_idle hidle).mp hcurrent hksv', engineTurns_key]

/-! ### A whole cipher operation (43_block_cipher.md R202) -/

/-- A turn of a cipher operation leaves KS, KSV and MODE alone. -/
theorem engineTurn_of_isCipher (h : s.phase.isCipher = true) :
    (engineTurn s).ks = s.ks ∧ (engineTurn s).ksv = s.ksv ∧ (engineTurn s).mode = s.mode := by
  obtain ⟨hp, -⟩ | ⟨hp, -⟩ | ⟨i, hp, -⟩ | ⟨-, e⟩ | ⟨i, -, e⟩ | ⟨-, e⟩ := engineTurn_cases s
  case inl | inr.inl | inr.inr.inl => rw [hp] at h; cases h
  all_goals rw [e]; exact ⟨rfl, rfl, rfl⟩

/-- Before its last turn a cipher operation goes on, on the same block. -/
theorem engineTurn_of_isCipher_of_lt (h : s.phase.isCipher = true) (hlt : 1 < s.phase.remaining) :
    (engineTurn s).phase.isCipher = true ∧ (engineTurn s).data = s.data := by
  obtain ⟨hp, -⟩ | ⟨hp, -⟩ | ⟨i, hp, -⟩ | ⟨-, e⟩ | ⟨i, -, e⟩ | ⟨hp, -⟩ := engineTurn_cases s
  case inl | inr.inl | inr.inr.inl => rw [hp] at h; cases h
  case inr.inr.inr.inr.inr => rw [hp] at hlt; exact absurd hlt (by decide)
  · rw [e]; exact ⟨rfl, rfl⟩
  · rw [e]
    refine ⟨?_, rfl⟩
    by_cases hi : i.val + 1 < 16
    · rw [ciRoundStep_phase_of_lt s hi]; rfl
    · rw [ciRoundStep_phase_of_last s hi]; rfl

theorem engineTurns_of_isCipher {n : Nat} (h : s.phase.isCipher = true) (hn : n < s.phase.remaining) :
    (engineTurns n s).phase.isCipher = true ∧ (engineTurns n s).data = s.data ∧ (engineTurns n s).ks = s.ks ∧
    (engineTurns n s).ksv = s.ksv ∧ (engineTurns n s).mode = s.mode := by
  induction n with
  | zero => exact ⟨h, rfl, rfl, rfl, rfl⟩
  | succ n ih =>
    obtain ⟨hp, hdata, hks, hksv, hmode⟩ := ih (by omega)
    obtain ⟨hks', hksv', hmode'⟩ := engineTurn_of_isCipher hp
    obtain ⟨hp', hdata'⟩ := engineTurn_of_isCipher_of_lt hp (by rw [engineTurns_remaining]; omega)
    rw [engineTurns_succ]
    exact ⟨hp', hdata'.trans hdata, hks'.trans hks, hksv'.trans hksv, hmode'.trans hmode⟩

/-- The engine, given its eighteen turns, completes an accepted ENCRYPT or DECRYPT. -/
theorem engineTurns_of_ciInit (hp : s.phase = .ciInit) :
    (engineTurns 18 s).data = crypt s.data s.ks s.mode ∧ (engineTurns 18 s).done = true ∧
    (engineTurns 18 s).phase = .idle ∧ (engineTurns 18 s).ks = s.ks ∧ (engineTurns 18 s).ksv = s.ksv := by
  have hkind : s.phase.isCipher = true := by rw [hp]; rfl
  have hremaining : s.phase.remaining = 18 := by rw [hp]; rfl
  obtain ⟨hkind17, hdata, hks, hksv, hmode⟩ := engineTurns_of_isCipher (n := 17) hkind (by omega)
  have hfinal : (engineTurns 17 s).phase = .ciFinal := by
    rw [phase_eq_of_remaining_eq_one (p := (engineTurns 17 s).phase) (by rw [engineTurns_remaining, hremaining]),
      hkind17]
    rfl
  have htrack : CipherOnTrack (engineTurns 17 s) :=
    engineTurns_keeps (I := CipherOnTrack) (fun _ => cipherOnTrack_engineTurn) 17 (cipherOnTrack_of_ciInit hp)
  rw [engineTurns_succ, engineTurn_of_ciFinal hfinal, ciFinalStep_data_of_onTrack hfinal htrack, hdata, hks, hmode]
  exact ⟨rfl, rfl, rfl, hks, hksv⟩

/-! ### What the host does meanwhile (70_reset_and_hazards.md R293) -/

/-- What the engine reads and writes: the state without the recorded error and the model's own fields. -/
def State.engineView (s : State) : State :=
  { s with err := false, errcode := .none, inputs := [], reads := [], draws := 0 }

theorem ksRoundStep_engineView (i : Fin 16) (s : State) :
    ksRoundStep i s.engineView = (ksRoundStep i s).engineView := by
  by_cases hi : i.val + 1 < 16
  · rw [ksRoundStep_of_lt _ hi, ksRoundStep_of_lt _ hi]; rfl
  · rw [ksRoundStep_of_last _ hi, ksRoundStep_of_last _ hi]; rfl

theorem engineTurn_engineView (s : State) : engineTurn s.engineView = (engineTurn s).engineView := by
  cases h : s.phase with
  | idle => rw [engineTurn_of_idle h, engineTurn_of_idle (s := s.engineView) h]
  | ksSplit => rw [engineTurn_of_ksSplit h, engineTurn_of_ksSplit (s := s.engineView) h]; rfl
  | ksRound i => rw [engineTurn_of_ksRound h, engineTurn_of_ksRound (s := s.engineView) h, ksRoundStep_engineView]
  | ciInit => rw [engineTurn_of_ciInit h, engineTurn_of_ciInit (s := s.engineView) h]; rfl
  | ciRound i => rw [engineTurn_of_ciRound h, engineTurn_of_ciRound (s := s.engineView) h]; rfl
  | ciFinal => rw [engineTurn_of_ciFinal h, engineTurn_of_ciFinal (s := s.engineView) h]; rfl

theorem engineTurns_engineView (n : Nat) (s : State) : engineTurns n s.engineView = (engineTurns n s).engineView := by
  induction n generalizing s with
  | zero => rfl
  | succ n ih => rw [engineTurns, engineTurn_engineView, ih, ← engineTurns]

/-- States with the same view agree on the elements that an operation computes with. -/
theorem elements_eq_of_engineView_eq {u : State} (h : t.engineView = u.engineView) :
    t.key = u.key ∧ t.data = u.data ∧ t.ks = u.ks ∧ t.ksv = u.ksv ∧ t.done = u.done ∧ t.phase = u.phase ∧
    t.mode = u.mode ∧ t.l = u.l ∧ t.r = u.r :=
  ⟨(congrArg State.key h :), (congrArg State.data h :), (congrArg State.ks h :), (congrArg State.ksv h :),
    (congrArg State.done h :), (congrArg State.phase h :), (congrArg State.mode h :), (congrArg State.l h :),
    (congrArg State.r h :)⟩

theorem engineView_raiseError (e : ErrCode) (s : State) : (raiseError e s).engineView = s.engineView := by
  rw [raiseError_eq]; rfl

theorem engineView_deliver (v : ReadValue) (s : State) : (deliver v s).engineView = s.engineView := by
  obtain ⟨b, -, e⟩ | ⟨-, e⟩ := deliver_cases v s <;> rw [e] <;> rfl

/-- While busy a host transaction, whatever it is, reaches nothing that the engine reads. -/
theorem step_of_hostNext_of_busy {T : BusWord} (hT : s.inputs = .bus T :: rest) (hbusy : s.busy = true) :
    ∃ t, step s = .next t ∧ t.engineView = s.engineView ∧ t.inputs = rest := by
  have hpop : s.popInput.inputs = rest := by rw [State.popInput, hT, List.tail_cons]
  rw [step_of_hostNext ⟨rest, hT⟩]
  obtain ⟨addr, data, hd⟩ | ⟨addr, hd⟩ := decodeBus_cases T <;> rw [hd]
  · exact ⟨_, exec_wr_of_busy (s := s.popInput) addr data hbusy, engineView_raiseError _ _,
      (raiseError_inputs _ _).trans hpop⟩
  · exact ⟨_, rfl, engineView_deliver _ _, (deliver_inputs _ _).trans hpop⟩

theorem run_succ_of_step (n : Nat) (h : step s = .next t) : run (n + 1) s = run n t := by
  rw [run, h]

theorem run_add {m : Nat} (n : Nat) (h : run m s = .next t) : run (m + n) s = run n t := by
  induction m generalizing s with
  | zero => rw [Nat.zero_add, Host.Outcome.next.inj h]
  | succ m ih =>
    rw [run] at h
    rw [Nat.succ_add, run]
    cases hs : step s with
    | next u => rw [hs] at h; exact ih h
    | fault f => rw [hs] at h; cases h
    | refused r => rw [hs] at h; cases h

/-- During an operation, a stretch of the run without a reset changes what the engine reads by its turns alone. -/
theorem run_of_lt_remaining {events : List Input} (hreset : Input.reset ∉ events)
    (hlt : events.count .engine < s.phase.remaining) (hin : s.inputs = events ++ rest) :
    ∃ t, run events.length s = .next t ∧ t.engineView = (engineTurns (events.count .engine) s).engineView ∧
      t.inputs = rest := by
  induction events generalizing s with
  | nil => exact ⟨s, rfl, rfl, hin⟩
  | cons event events ih =>
    obtain ⟨hne, hreset'⟩ := not_or.mp (mt List.mem_cons.mpr hreset)
    cases event with
    | reset => exact absurd rfl hne
    | bus T =>
      have hcount : (Input.bus T :: events).count .engine = events.count .engine :=
        List.count_cons_of_ne (by simp)
      rw [hcount] at hlt ⊢
      have hbusy : s.busy = true := busy_eq_true_iff.mpr (mt (remaining_eq_zero_iff _).mpr (by omega))
      obtain ⟨u, hstep, hview, hinputs⟩ := step_of_hostNext_of_busy (rest := events ++ rest) hin hbusy
      have hphase : u.phase = s.phase := (congrArg State.phase hview :)
      obtain ⟨t, hrun, htview, htin⟩ := ih hreset' (hphase ▸ hlt) hinputs
      refine ⟨t, ?_, ?_, htin⟩
      · rw [List.length_cons, run_succ_of_step _ hstep, hrun]
      · rw [htview, ← engineTurns_engineView, hview, engineTurns_engineView]
    | engine =>
      rw [List.count_cons_self] at hlt ⊢
      have hstep : step s = .next { engineTurn s with inputs := events ++ rest } := step_of_engine_event hin
      obtain ⟨t, hrun, htview, htin⟩ := ih (s := { engineTurn s with inputs := events ++ rest }) hreset'
        (by rw [show ({ engineTurn s with inputs := events ++ rest } : State).phase = (engineTurn s).phase from rfl,
          engineTurn_remaining]; omega) rfl
      refine ⟨t, ?_, ?_, htin⟩
      · rw [List.length_cons, run_succ_of_step _ hstep, hrun]
      · rw [htview, engineTurns_setInputs, engineTurns]; rfl

/-- An operation whose last turn comes last ends as the engine's turns alone would end it. -/
theorem run_whole_operation {events : List Input} {n : Nat} (hreset : Input.reset ∉ events)
    (hcount : events.count .engine + 1 = n) (hn : s.phase.remaining = n) (hin : s.inputs = events ++ .engine :: rest) :
    ∃ t, run (events.length + 1) s = .next t ∧ t.engineView = (engineTurns n s).engineView ∧ t.inputs = rest := by
  obtain ⟨u, hrun, hview, hinputs⟩ := run_of_lt_remaining hreset (by omega) hin
  refine ⟨{ engineTurn u with inputs := rest }, ?_, ?_, rfl⟩
  · rw [run_add 1 hrun, run_succ_of_step 0 (step_of_engine_event hinputs), run]
  · rw [← hcount, engineTurns_succ, ← engineTurn_engineView, ← hview, engineTurn_engineView]; rfl

/-- Settles O41: an accepted KEYSCHED has seventeen turns to go, and what they leave does not depend on what the host
does among them. -/
theorem keyschedEndsWithTheKeySchedule : Obligations.KeyschedEndsWithTheKeySchedule := by
  unfold Obligations.KeyschedEndsWithTheKeySchedule
  intro s between rest hidle hreset hcount hin
  have haccept : exec .keysched s = .next (acceptKeysched s) := exec_toInstr_of_idle .keysched hidle
  obtain ⟨t, hrun, hview, hinputs⟩ := run_whole_operation (s := acceptKeysched s) (n := 17) hreset
    (by rw [hcount]) rfl hin
  obtain ⟨hks, hksv, hdone, hphase⟩ := engineTurns_of_ksSplit (acceptKeysched_phase s) rfl
  obtain ⟨-, hdata, hl, hr, hmode⟩ := engineTurns_of_notCipher (s := acceptKeysched s) 17 rfl
  obtain ⟨ekey, edata, eks, eksv, edone, ephase, emode, el, er⟩ := elements_eq_of_engineView_eq hview
  exact ⟨acceptKeysched s, t, haccept, hrun, eks.trans hks, eksv.trans hksv, edone.trans hdone, ephase.trans hphase,
    ekey.trans (engineTurns_key 17 _), edata.trans hdata, el.trans hl, er.trans hr, emode.trans hmode, hinputs⟩

/-- Settles O42: an accepted cipher command has eighteen turns to go, and what they leave does not depend on what the
host does among them. -/
theorem cipherCommandEndsWithCrypt : Obligations.CipherCommandEndsWithCrypt := by
  unfold Obligations.CipherCommandEndsWithCrypt
  intro s m i between rest hidle hksv hi hreset hcount hin
  obtain rfl : i = m.command.toInstr := by obtain ⟨rfl, rfl⟩ | ⟨rfl, rfl⟩ := hi <;> rfl
  obtain ⟨t, hrun, hview, hinputs⟩ := run_whole_operation (s := { s with mode := m, done := false, phase := .ciInit })
    (n := 18) hreset (by rw [hcount]) rfl hin
  obtain ⟨hdata, hdone, hphase, hks, hksv'⟩ :=
    engineTurns_of_ciInit (s := { s with mode := m, done := false, phase := .ciInit }) rfl
  obtain ⟨ekey, edata, eks, eksv, edone, ephase, -, -, -⟩ := elements_eq_of_engineView_eq hview
  exact ⟨_, t, exec_cipher_of_valid m hidle hksv, hrun, edata.trans hdata, edone.trans hdone, ephase.trans hphase,
    ekey.trans (engineTurns_key 18 _), eks.trans hks, eksv.trans (hksv'.trans hksv), hinputs⟩

theorem step_of_no_events (h : s.inputs = []) : step s = .next (engineTurn s) := by
  simp only [step, h]

/-- When the run lists no event, a run is the engine's turns (log 2). -/
theorem run_of_no_events (n : Nat) (h : s.inputs = []) : run n s = .next (engineTurns n s) := by
  induction n generalizing s with
  | zero => rfl
  | succ n ih => rw [run_succ_of_step n (step_of_no_events h), ih ((engineTurn_inputs s).trans h), engineTurns]

/-- Settles O43: the operation in progress has at most eighteen steps to go, and then the engine waits. -/
theorem operationEndsWithinEighteenSteps : Obligations.OperationEndsWithinEighteenSteps := by
  unfold Obligations.OperationEndsWithinEighteenSteps
  intro s hin
  have hphase : (engineTurns s.phase.remaining s).phase = .idle := engineTurns_phase_of_remaining_le (le_refl _)
  refine ⟨s.phase.remaining, _, remaining_le _, run_of_no_events _ hin, hphase, ?_⟩
  rw [step_of_no_events ((engineTurns_inputs _ s).trans hin), engineTurn_of_idle hphase]

end Sys2Proof.Machine
end

section
/-! Two runs that differ in the elements reset leaves unspecified (70_reset_and_hazards.md R290, 10_state.md §3), with
the settled statement on them. -/

namespace Sys2Proof.Machine

variable {s t : State}

/-! ### What a host cannot tell apart -/

/-- Two states agree on every specified element, and on each unspecified one in the phases in which something that a
host can observe still depends on it. -/
structure SameToHost (s t : State) : Prop where
  specified : SpecifiedAgree s t
  /-- Valid subkeys can be read (44_host_interface.md R232) and used. -/
  subkeys : s.ksv = true → s.ks = t.ks
  /-- KEYSCHED goes on from its halves, and will show the entries it has written. -/
  schedule : ∀ i, s.phase = .ksRound i → s.c = t.c ∧ s.d = t.d ∧ ∀ j : Fin 16, j < i → s.ks[j] = t.ks[j]
  /-- A cipher operation uses its subkeys in the order of its mode. -/
  cipher : s.phase.isCipher = true → s.ks = t.ks ∧ s.mode = t.mode
  /-- After CI_INIT a cipher operation goes on from its half-blocks. -/
  halves : s.phase.isCipher = true → s.phase ≠ .ciInit → s.l = t.l ∧ s.r = t.r

theorem SpecifiedAgree.busy_eq (h : SpecifiedAgree s t) : s.busy = t.busy := by
  obtain ⟨-, -, -, -, -, -, hphase, -⟩ := h
  rw [State.busy, State.busy, hphase]

/-- In IDLE only valid subkeys matter. -/
theorem SameToHost.of_idle (hp : s.phase = .idle) (hspec : SpecifiedAgree s t) (hks : s.ksv = true → s.ks = t.ks) :
    SameToHost s t where
  specified := hspec
  subkeys := hks
  schedule i hi := by rw [hp] at hi; cases hi
  cipher hc := by rw [hp] at hc; cases hc
  halves hc := by rw [hp] at hc; cases hc

theorem specifiedAgree_raiseError (e : ErrCode) (h : SpecifiedAgree s t) :
    SpecifiedAgree (raiseError e s) (raiseError e t) := by
  obtain ⟨hkey, hdata, hksv, hdone, herr, hcode, hphase, hin, hreads, hdraws⟩ := h
  simp [SpecifiedAgree, hkey, hdata, hksv, hdone, herr, hcode, hphase, hin, hreads, hdraws]

theorem SameToHost.raiseError (e : ErrCode) (h : SameToHost s t) : SameToHost (raiseError e s) (raiseError e t) where
  specified := specifiedAgree_raiseError e h.specified
  subkeys := by simpa using h.subkeys
  schedule := by simpa using h.schedule
  cipher := by simpa using h.cipher
  halves := by simpa using h.halves

/-! ### Host transactions -/

theorem SameToHost.statusByte_eq (h : SameToHost s t) : statusByte s = statusByte t := by
  have hbusy := h.specified.busy_eq
  obtain ⟨-, -, hksv, hdone, herr, -⟩ := h.specified
  rw [statusByte, statusByte, herr, hdone, hksv, hbusy]

theorem SameToHost.errcodeByte_eq (h : SameToHost s t) : errcodeByte s = errcodeByte t := by
  obtain ⟨-, -, -, -, -, hcode, -⟩ := h.specified
  rw [errcodeByte, errcodeByte, hcode]

/-- A read returns the same byte, or a draw, in both states. -/
theorem SameToHost.readReg_eq (sel : RegSel) (h : SameToHost s t) : readReg sel s = readReg sel t := by
  have hbusy := h.specified.busy_eq
  obtain ⟨hkey, hdata, hksv, -⟩ := h.specified
  cases sel with
  | key j => rw [readReg, readReg, hkey]
  | data j => rw [readReg, readReg, hbusy, hdata]
  | status => rw [readReg, readReg, h.statusByte_eq]
  | errcode => rw [readReg, readReg, h.errcodeByte_eq]
  | cmd | unmapped => rfl
  | window i j =>
    cases hs : s.ksv with
    | true => rw [readReg, readReg, hbusy, ← hksv, h.subkeys hs]
    | false => simp [readReg, ← hksv, hs]

theorem SameToHost.deliver (v : ReadValue) (h : SameToHost s t) : SameToHost (deliver v s) (deliver v t) where
  specified := by
    obtain ⟨hkey, hdata, hksv, hdone, herr, hcode, hphase, hin, hreads, hdraws⟩ := h.specified
    cases v <;>
      simp [SpecifiedAgree, Machine.deliver, hkey, hdata, hksv, hdone, herr, hcode, hphase, hin, hreads, hdraws]
  subkeys := by simpa using h.subkeys
  schedule := by simpa using h.schedule
  cipher := by simpa using h.cipher
  halves := by simpa using h.halves

theorem SameToHost.acceptCipher (m : Mode) (h : SameToHost s t) :
    SameToHost (acceptCipher m s) (acceptCipher m t) := by
  obtain ⟨hkey, hdata, hksv, -, herr, hcode, -, hin, hreads, hdraws⟩ := h.specified
  cases hs : s.ksv with
  | false =>
    rw [acceptCipher_of_invalid m hs, acceptCipher_of_invalid m (hksv ▸ hs)]
    exact h.raiseError .noSubkeys
  | true =>
    rw [acceptCipher_of_valid m hs, acceptCipher_of_valid m (hksv ▸ hs)]
    exact {
      specified := ⟨hkey, hdata, hksv, rfl, herr, hcode, rfl, hin, hreads, hdraws⟩
      subkeys := h.subkeys
      schedule := fun i hi => by cases hi
      cipher := fun _ => ⟨h.subkeys hs, rfl⟩
      halves := fun _ hne => absurd rfl hne }

theorem SameToHost.performCommand (op : CmdOp) (h : SameToHost s t) (hp : s.phase = .idle) :
    SameToHost (performCommand op s) (performCommand op t) := by
  obtain ⟨hkey, hdata, hksv, hdone, herr, hcode, hphase, hin, hreads, hdraws⟩ := h.specified
  cases op with
  | nop => exact h
  | keysched =>
    exact {
      specified := ⟨hkey, hdata, rfl, rfl, herr, hcode, rfl, hin, hreads, hdraws⟩
      subkeys := fun hksv => absurd hksv Bool.false_ne_true
      schedule := fun i hi => by cases hi
      cipher := fun hc => by cases hc
      halves := fun hc => by cases hc }
  | encrypt => exact h.acceptCipher .enc
  | decrypt => exact h.acceptCipher .dec
  | clrerr => exact .of_idle hp ⟨hkey, hdata, hksv, hdone, rfl, rfl, hphase, hin, hreads, hdraws⟩ h.subkeys

theorem SameToHost.writeReg (sel : RegSel) (data : Byte) (h : SameToHost s t) (hp : s.phase = .idle) :
    SameToHost (writeReg sel data s) (writeReg sel data t) := by
  obtain ⟨hkey, hdata, hksv, hdone, herr, hcode, hphase, hin, hreads, hdraws⟩ := h.specified
  cases sel with
  | key j =>
    exact .of_idle hp ⟨congrArg (setByte · j data) hkey, hdata, rfl, hdone, herr, hcode, hphase, hin, hreads, hdraws⟩
      fun hksv => absurd hksv Bool.false_ne_true
  | data j =>
    exact .of_idle hp ⟨hkey, congrArg (setByte · j data) hdata, hksv, hdone, herr, hcode, hphase, hin, hreads, hdraws⟩
      h.subkeys
  | cmd =>
    cases hc : decodeCmdByte data with
    | ok op =>
      obtain rfl := (decodeCmdByte_ok_iff data op).mp hc
      simpa only [Machine.writeReg, writeCmd_byte] using h.performCommand op hp
    | error e => simpa only [Machine.writeReg, writeCmd, hc] using h.raiseError .illegalCmd
  | status | errcode | window | unmapped => exact h

theorem SameToHost.guardedWrite (sel : RegSel) (data : Byte) (h : SameToHost s t) :
    SameToHost (guardedWrite (Machine.writeReg sel data) s) (guardedWrite (Machine.writeReg sel data) t) := by
  have hbusy := h.specified.busy_eq
  cases hs : s.busy with
  | true =>
    rw [guardedWrite_of_busy _ hs, guardedWrite_of_busy _ (hbusy ▸ hs)]
    exact h.raiseError .busyWrite
  | false =>
    rw [guardedWrite_of_idle _ hs, guardedWrite_of_idle _ (hbusy ▸ hs)]
    exact h.writeReg sel data (busy_eq_false_iff.mp hs)

/-! ### Turns of the engine, and reset -/

/-- Round `i+1` writes the same entry in both states. -/
theorem ksRoundStep_entries_congr {i : Fin 16} (hc : s.c = t.c) (hd : s.d = t.d)
    (hks : ∀ j : Fin 16, j < i → s.ks[j] = t.ks[j]) {j : Fin 16} (hj : j ≤ i) :
    (ksRoundStep i s).ks[j] = (ksRoundStep i t).ks[j] := by
  by_cases hji : j = i
  · simp only [hji, ksRoundStep_ks_self, ksRoundStep_c, ksRoundStep_d, hc, hd]
  · rw [ksRoundStep_ks_ne s hji, ksRoundStep_ks_ne t hji]
    exact hks j (lt_of_le_of_ne hj hji)

theorem SameToHost.ksRoundStep {i : Fin 16} (hp : s.phase = .ksRound i) (h : SameToHost s t) :
    SameToHost (ksRoundStep i s) (ksRoundStep i t) := by
  obtain ⟨hkey, hdata, hksv, hdone, herr, hcode, -, hin, hreads, hdraws⟩ := h.specified
  obtain ⟨hc, hd, hks⟩ := h.schedule i hp
  have hentries (j : Fin 16) (hj : j ≤ i) := ksRoundStep_entries_congr hc hd hks hj
  by_cases hi : i.val + 1 < 16
  · rw [ksRoundStep_of_lt s hi, ksRoundStep_of_lt t hi] at hentries ⊢
    exact {
      specified := ⟨hkey, hdata, hksv, hdone, herr, hcode, rfl, hin, hreads, hdraws⟩
      subkeys := fun hs => by simp only [State.rotateAndStore, h.subkeys hs, hc, hd]
      schedule := fun k hk => by
        obtain rfl := Phase.ksRound.inj hk
        exact ⟨congrArg (rotl · _) hc, congrArg (rotl · _) hd, fun j hj => hentries j (Nat.lt_succ_iff.mp hj)⟩
      cipher := fun hc => by cases hc
      halves := fun hc => by cases hc }
  · rw [ksRoundStep_of_last s hi, ksRoundStep_of_last t hi] at hentries ⊢
    exact .of_idle rfl ⟨hkey, hdata, rfl, rfl, herr, hcode, rfl, hin, hreads, hdraws⟩
      fun _ => Vector.ext fun j hj => hentries ⟨j, hj⟩ (Fin.mk_le_of_le_val (by omega))

theorem SameToHost.ciRoundStep {i : Fin 16} (hp : s.phase = .ciRound i) (h : SameToHost s t) :
    SameToHost (ciRoundStep i s) (ciRoundStep i t) := by
  obtain ⟨hkey, hdata, hksv, hdone, herr, hcode, -, hin, hreads, hdraws⟩ := h.specified
  obtain ⟨hks, hmode⟩ := h.cipher (by rw [hp]; rfl)
  obtain ⟨hl, hr⟩ := h.halves (by rw [hp]; rfl) (by rw [hp]; exact Phase.noConfusion)
  exact {
    specified := ⟨hkey, hdata, hksv, hdone, herr, hcode, rfl, hin, hreads, hdraws⟩
    subkeys := h.subkeys
    schedule := fun k hk => by
      by_cases hi : i.val + 1 < 16
      · rw [ciRoundStep_phase_of_lt s hi] at hk; cases hk
      · rw [ciRoundStep_phase_of_last s hi] at hk; cases hk
    cipher := fun _ => ⟨hks, hmode⟩
    halves := fun _ _ => ⟨hr, by rw [ciRoundStep_r, ciRoundStep_r, hl, hr, hks, hmode]⟩ }

theorem SameToHost.engineTurn (h : SameToHost s t) : SameToHost (engineTurn s) (engineTurn t) := by
  obtain ⟨hkey, hdata, hksv, hdone, herr, hcode, hphase, hin, hreads, hdraws⟩ := h.specified
  cases hp : s.phase with
  | idle =>
    rw [engineTurn_of_idle hp, engineTurn_of_idle (hphase ▸ hp)]
    exact h
  | ksSplit =>
    rw [engineTurn_of_ksSplit hp, engineTurn_of_ksSplit (hphase ▸ hp)]
    exact {
      specified := ⟨hkey, hdata, hksv, hdone, herr, hcode, rfl, hin, hreads, hdraws⟩
      subkeys := h.subkeys
      schedule := fun i hi => by
        obtain rfl := Phase.ksRound.inj hi
        exact ⟨congrArg (applyTable pc1c) hkey, congrArg (applyTable pc1d) hkey, fun j hj => absurd hj j.not_lt_zero⟩
      cipher := fun hc => by cases hc
      halves := fun hc => by cases hc }
  | ksRound i =>
    rw [engineTurn_of_ksRound hp, engineTurn_of_ksRound (hphase ▸ hp)]
    exact h.ksRoundStep hp
  | ciInit =>
    obtain ⟨hks, hmode⟩ := h.cipher (by rw [hp]; rfl)
    rw [engineTurn_of_ciInit hp, engineTurn_of_ciInit (hphase ▸ hp)]
    exact {
      specified := ⟨hkey, hdata, hksv, hdone, herr, hcode, rfl, hin, hreads, hdraws⟩
      subkeys := h.subkeys
      schedule := fun i hi => by cases hi
      cipher := fun _ => ⟨hks, hmode⟩
      halves := fun _ _ => by simp only [ciInitStep_l, ciInitStep_r, hdata, and_self] }
  | ciRound i =>
    rw [engineTurn_of_ciRound hp, engineTurn_of_ciRound (hphase ▸ hp)]
    exact h.ciRoundStep hp
  | ciFinal =>
    obtain ⟨hl, hr⟩ := h.halves (by rw [hp]; rfl) (by rw [hp]; exact Phase.noConfusion)
    have hblock : finalBlock (s.l, s.r) = finalBlock (t.l, t.r) := by rw [hl, hr]
    rw [engineTurn_of_ciFinal hp, engineTurn_of_ciFinal (hphase ▸ hp)]
    exact .of_idle rfl ⟨hkey, hblock, hksv, rfl, herr, hcode, rfl, hin, hreads, hdraws⟩ h.subkeys

/-- A reset takes the same free values in both states. -/
theorem SameToHost.takeReset (h : SameToHost s t) : SameToHost (takeReset s) (takeReset t) := by
  obtain ⟨-, -, -, -, -, -, -, hin, hreads, hdraws⟩ := h.specified
  exact .of_idle rfl ⟨rfl, rfl, rfl, rfl, rfl, rfl, rfl, hin, hreads, congrArg (· + 1) hdraws⟩
    fun hksv => absurd hksv Bool.false_ne_true

/-! ### Steps and runs -/

theorem SameToHost.popInput (h : SameToHost s t) : SameToHost s.popInput t.popInput where
  specified := by
    obtain ⟨hkey, hdata, hksv, hdone, herr, hcode, hphase, hin, hreads, hdraws⟩ := h.specified
    exact ⟨hkey, hdata, hksv, hdone, herr, hcode, hphase, congrArg List.tail hin, hreads, hdraws⟩
  subkeys := h.subkeys
  schedule := h.schedule
  cipher := h.cipher
  halves := h.halves

theorem SameToHost.step (h : SameToHost s t) :
    ∃ s' t', step s = .next s' ∧ step t = .next t' ∧ SameToHost s' t' := by
  have hpop := h.popInput
  obtain ⟨-, -, -, -, -, -, -, hin, -, -⟩ := h.specified
  obtain he | hr | ⟨T, hT⟩ := engineNext_or_resetNext_or_hostNext s
  · have he' : t.engineNext := by rwa [State.engineNext, ← hin]
    exact ⟨_, _, step_of_engineNext he, step_of_engineNext he', hpop.engineTurn⟩
  · have hr' : t.resetNext := by rwa [State.resetNext, ← hin]
    exact ⟨_, _, step_of_resetNext hr, step_of_resetNext hr', hpop.takeReset⟩
  · have hT' : t.hostNext T := by rwa [State.hostNext, ← hin]
    rw [step_of_hostNext hT, step_of_hostNext hT']
    obtain ⟨addr, data, hd⟩ | ⟨addr, hd⟩ := decodeBus_cases T <;> rw [hd]
    · exact ⟨_, _, rfl, rfl, hpop.guardedWrite (selectReg addr) data⟩
    · refine ⟨_, _, rfl, rfl, ?_⟩
      rw [hpop.readReg_eq]
      exact hpop.deliver _

theorem SameToHost.run (n : Nat) (h : SameToHost s t) :
    ∃ s' t', run n s = .next s' ∧ run n t = .next t' ∧ SameToHost s' t' := by
  induction n generalizing s t with
  | zero => exact ⟨s, t, rfl, rfl, h⟩
  | succ n ih =>
    obtain ⟨s', t', hs, ht, h'⟩ := h.step
    rw [run_succ_of_step n hs, run_succ_of_step n ht]
    exact ih h'

/-- Settles O44: from an idle state with KSV = 0 nothing observable depends on the unspecified elements, and every step
brings them to the same values before something does. -/
theorem unspecifiedElementsAreUnobservable : Obligations.UnspecifiedElementsAreUnobservable := by
  unfold Obligations.UnspecifiedElementsAreUnobservable
  intro s ks m c d l r n hp hksv
  have hstart : SameToHost s { s with ks := ks, mode := m, c := c, d := d, l := l, r := r } :=
    .of_idle hp ⟨rfl, rfl, rfl, rfl, rfl, rfl, rfl, rfl, rfl, rfl⟩ fun htrue => absurd htrue (by simp [hksv])
  obtain ⟨t, t', ht, ht', h⟩ := hstart.run n
  exact ⟨t, t', ht, ht', h.specified, h.statusByte_eq, h.errcodeByte_eq⟩

end Sys2Proof.Machine
end

section
/-! The host's programs run against the block (44_host_interface.md R244, 30_encoding.md R77): what a `POLL` does, what
a trusted result is, and when the driver comes to its end, with the settled statement on them. -/

namespace Sys2Proof.Machine

variable {s t u p : State} {schedule left : List Nat} {ops : List HostOp}

/-! ### The operation in progress, completed -/

/-- The block once the engine has taken all the steps that the operation in progress still has to take. -/
def State.completed (s : State) : State := engineTurns s.phase.remaining s

theorem completed_phase (s : State) : s.completed.phase = .idle := engineTurns_phase_of_remaining_le (le_refl _)

theorem completed_of_idle (h : s.phase = .idle) : s.completed = s := engineTurns_of_idle _ h

theorem engineTurns_engineTurns (m n : Nat) (s : State) : engineTurns n (engineTurns m s) = engineTurns (m + n) s := by
  induction n with
  | zero => rfl
  | succ n ih => rw [engineTurns_succ, ih, ← Nat.add_assoc, engineTurns_succ]

theorem completed_engineTurns (n : Nat) (s : State) : (engineTurns n s).completed = s.completed := by
  rw [State.completed, engineTurns_engineTurns, engineTurns_remaining, engineTurns_of_remaining_le (by omega),
    ← State.completed]

theorem engineView_completed_congr (h : s.engineView = t.engineView) :
    s.completed.engineView = t.completed.engineView := by
  have hphase : s.phase = t.phase := (congrArg State.phase h :)
  rw [State.completed, State.completed, ← engineTurns_engineView, ← engineTurns_engineView, h, hphase]

theorem engineTurns_err (n : Nat) (s : State) : (engineTurns n s).err = s.err :=
  engineTurns_keeps (I := fun u => u.err = s.err) (fun u hu => (engineTurn_err u).trans hu) n rfl

theorem engineTurns_reads (n : Nat) (s : State) : (engineTurns n s).reads = s.reads :=
  engineTurns_keeps (I := fun u => u.reads = s.reads) (fun u hu => (engineTurn_reads u).trans hu) n rfl

/-! ### Lines of a program -/

theorem drive_issue {n : Nat} {i : Instr} (h : issueAfter n i s = .next t) :
    drive (n :: schedule) (.issue i :: ops) s = drive schedule ops t :=
  drive_of_next n schedule (.issue i) ops h

/-- A line of a program has a next state whatever it is; the program goes on with the lines that are left. -/
theorem exists_drive_cons (n : Nat) (schedule : List Nat) (op : HostOp) (ops : List HostOp) (s : State) :
    ∃ t, issueAfter n op.instr s = .next t ∧
      drive (n :: schedule) (op :: ops) s = drive schedule (if op.over (lastRead t) then ops else op :: ops) t := by
  obtain ⟨t, ht⟩ := exists_exec_eq_next (decodeBus (encode op.instr).transaction) (engineTurns n s)
  have hissue : issueAfter n op.instr s = .next t := (issueAfter_eq n op.instr s).trans ht
  exact ⟨t, hissue, drive_of_next n schedule op ops hissue⟩

/-- A program that ends has been given a transaction for each of its lines. -/
theorem length_le_of_finished (h : drive schedule ops s = .finished u left) : ops.length ≤ schedule.length := by
  induction schedule generalizing ops s with
  | nil =>
    cases ops with
    | nil => exact le_refl 0
    | cons op ops => cases h
  | cons n schedule ih =>
    cases ops with
    | nil => exact Nat.zero_le _
    | cons op ops =>
      obtain ⟨t, -, hdrive⟩ := exists_drive_cons n schedule op ops s
      have hlen := ih (hdrive.symm.trans h)
      split at hlen <;> simp only [List.length_cons] at hlen ⊢ <;> omega

/-- A program that ends has ended its first part before it begins the second. -/
theorem exists_finished_of_append {ops' : List HostOp} (h : drive schedule (ops ++ ops') s = .finished u left) :
    ∃ mid t, drive schedule ops s = .finished t mid ∧ drive mid ops' t = .finished u left := by
  induction schedule generalizing ops s with
  | nil =>
    cases ops with
    | nil => exact ⟨[], s, rfl, h⟩
    | cons op ops => cases h
  | cons n schedule ih =>
    cases ops with
    | nil => exact ⟨n :: schedule, s, rfl, h⟩
    | cons op ops =>
      obtain ⟨t, hissue, hdrive⟩ := exists_drive_cons n schedule op (ops ++ ops') s
      rw [List.cons_append, hdrive] at h
      rw [drive_of_next n schedule op ops hissue]
      cases hover : op.over (lastRead t) with
      | true => rw [hover] at h; exact ih h
      | false => rw [hover] at h; exact ih (ops := op :: ops) h

/-! ### The recorded error stays (60_exceptions.md R266) -/

/-- A line whose transaction is not the write that clears the error. -/
def HostOp.keepsError (op : HostOp) : Prop := decodeBus (encode op.instr).transaction ≠ .wr 0x10 0x04

theorem issueAfter_err_of_set {n : Nat} {op : HostOp} (hop : op.keepsError) (h : issueAfter n op.instr s = .next t)
    (hs : s.err = true) : t.err = true := by
  have hturns : (engineTurns n s).err = true := (engineTurns_err n s).trans hs
  rw [issueAfter_eq] at h
  rw [HostOp.keepsError] at hop
  obtain ⟨addr, data, hd⟩ | ⟨addr, hd⟩ := decodeBus_cases (encode op.instr).transaction <;> rw [hd] at h hop <;>
    obtain rfl := Host.Outcome.next.inj h
  · obtain ⟨-, e⟩ | ⟨-, e⟩ := guardedWrite_cases (writeReg (selectReg addr) data) (engineTurns n s) <;> rw [e]
    · exact raiseError_err _ _
    · obtain ⟨herr, -⟩ := writeReg_error_of_set (addr := addr) (data := data) hturns
        fun hclr => hop (by obtain ⟨rfl, rfl⟩ := hclr; rfl)
      exact herr
  · rw [deliver_err, hturns]

theorem drive_err_of_set (hops : ∀ op ∈ ops, op.keepsError) (h : drive schedule ops s = .finished u left)
    (hs : s.err = true) : u.err = true := by
  induction schedule generalizing ops s with
  | nil =>
    cases ops with
    | nil => cases h; exact hs
    | cons op ops => cases h
  | cons n schedule ih =>
    cases ops with
    | nil => cases h; exact hs
    | cons op ops =>
      obtain ⟨t, hissue, hdrive⟩ := exists_drive_cons n schedule op ops s
      refine ih (fun op' hop' => hops op' ?_) (hdrive.symm.trans h)
        (issueAfter_err_of_set (hops op List.mem_cons_self) hissue hs)
      split at hop'
      · exact List.mem_cons_of_mem _ hop'
      · exact hop'

/-! ### `POLL` (30_encoding.md R77) -/

/-- The block after `n` turns of the engine and a read of STATUS. -/
def State.pollTurn (n : Nat) (s : State) : State :=
  { engineTurns n s with reads := s.reads ++ [statusByte (engineTurns n s)] }

theorem issueAfter_pollRead (n : Nat) (s : State) : issueAfter n pollRead s = .next (s.pollTurn n) := by
  rw [issueAfter_eq, pollRead, encode, EncodedWord.transaction, decodeBus_encodeRd, exec_rd_statusAddr,
    engineTurns_reads]
  rfl

theorem lastRead_pollTurn (n : Nat) (s : State) : lastRead (s.pollTurn n) = statusByte (engineTurns n s) := by
  simp [lastRead, State.pollTurn]

theorem pollEnds_statusByte (s : State) : pollEnds (statusByte s) = !s.busy := by
  rw [pollEnds, getLsbD_statusByte]; rfl

/-- A read of STATUS that returns BUSY = 0 ends the loop. -/
theorem drive_poll_of_idle {n : Nat} (h : (engineTurns n s).busy = false) :
    drive (n :: schedule) (.poll :: ops) s = drive schedule ops (s.pollTurn n) := by
  rw [drive_of_next n schedule .poll ops (issueAfter_pollRead n s), HostOp.over, lastRead_pollTurn, pollEnds_statusByte,
    h, if_pos (by decide)]

/-- A read of STATUS that returns BUSY = 1 repeats the loop. -/
theorem drive_poll_of_busy {n : Nat} (h : (engineTurns n s).busy = true) :
    drive (n :: schedule) (.poll :: ops) s = drive schedule (.poll :: ops) (s.pollTurn n) := by
  rw [drive_of_next n schedule .poll ops (issueAfter_pollRead n s), HostOp.over, lastRead_pollTurn, pollEnds_statusByte,
    h, if_neg (by decide)]

/-- A `POLL` begun in `s` with `schedule` has ended in `p` with `left`: the operation in progress is completed, and of
the bytes read the last alone shows BUSY = 0. -/
structure Polled (schedule left : List Nat) (s p : State) : Prop where
  view : p.engineView = s.completed.engineView
  err : p.err = s.err
  reads : ∃ (busyReads : List Byte) (last : Byte), p.reads = s.reads ++ busyReads ++ [last] ∧
    (∀ b ∈ busyReads, b.getLsbD 0 = true) ∧ last.getLsbD 0 = false ∧
    schedule.length = busyReads.length + 1 + left.length
  suffix : left <:+ schedule

theorem Polled.phase_eq (h : Polled schedule left s p) : p.phase = .idle :=
  (congrArg State.phase h.view :).trans (completed_phase s)

theorem polled_of_idle {n : Nat} (h : (engineTurns n s).busy = false) :
    Polled (n :: schedule) schedule s (s.pollTurn n) where
  view := by
    rw [← completed_engineTurns n s, completed_of_idle (busy_eq_false_iff.mp h)]
    rfl
  err := engineTurns_err n s
  reads := ⟨[], statusByte (engineTurns n s), by rw [List.append_nil]; rfl, by simp,
    (getLsbD_statusByte _ 0).trans h, by simp; omega⟩
  suffix := List.suffix_cons n schedule

theorem Polled.cons {n : Nat} (hbusy : (engineTurns n s).busy = true) (h : Polled schedule left (s.pollTurn n) p) :
    Polled (n :: schedule) left s p where
  view := by
    rw [h.view, ← completed_engineTurns n s]
    exact engineView_completed_congr rfl
  err := h.err.trans (engineTurns_err n s)
  reads := by
    obtain ⟨busyReads, last, hreads, hbits, hlast, hlen⟩ := h.reads
    refine ⟨statusByte (engineTurns n s) :: busyReads, last, ?_, ?_, hlast, by simp [hlen]; omega⟩
    · rw [hreads]; simp [State.pollTurn]
    · exact List.forall_mem_cons.mpr ⟨(getLsbD_statusByte _ 0).trans hbusy, hbits⟩
  suffix := h.suffix.trans (List.suffix_cons n schedule)

/-- A program that begins with `POLL` goes on after it, or the schedule ends inside it. -/
theorem drive_poll_cases (schedule : List Nat) (ops : List HostOp) (s : State) :
    (∃ w, drive schedule (.poll :: ops) s = .waiting w) ∨
    ∃ left p, Polled schedule left s p ∧ drive schedule (.poll :: ops) s = drive left ops p := by
  induction schedule generalizing s with
  | nil => exact .inl ⟨s, rfl⟩
  | cons n schedule ih =>
    cases hbusy : (engineTurns n s).busy with
    | false => exact .inr ⟨schedule, _, polled_of_idle hbusy, drive_poll_of_idle hbusy⟩
    | true =>
      rw [drive_poll_of_busy hbusy]
      obtain hw | ⟨left, p, hpolled, hdrive⟩ := ih (s.pollTurn n)
      · exact .inl hw
      · exact .inr ⟨left, p, hpolled.cons hbusy, hdrive⟩

theorem exists_polled_of_finished (h : drive schedule (.poll :: ops) s = .finished u left) :
    ∃ mid p, Polled schedule mid s p ∧ drive mid ops p = .finished u left := by
  obtain ⟨w, hw⟩ | ⟨mid, p, hpolled, hdrive⟩ := drive_poll_cases schedule ops s
  · rw [hw] at h; cases h
  · exact ⟨mid, p, hpolled, hdrive.symm.trans h⟩

/-- When the engine has a turn before each read, a `POLL` ends after as many reads as the operation has steps to go. -/
theorem exists_polled_of_turns (ops : List HostOp) (hturns : ∀ n ∈ schedule, 1 ≤ n) (h1 : 1 ≤ schedule.length)
    (hlen : s.phase.remaining ≤ schedule.length) :
    ∃ left p, Polled schedule left s p ∧ drive schedule (.poll :: ops) s = drive left ops p ∧
      schedule.length ≤ left.length + max 1 s.phase.remaining := by
  induction schedule generalizing s with
  | nil => exact absurd h1 (by decide)
  | cons n schedule ih =>
    obtain ⟨hn, hturns'⟩ := List.forall_mem_cons.mp hturns
    cases hbusy : (engineTurns n s).busy with
    | false =>
      refine ⟨schedule, _, polled_of_idle hbusy, drive_poll_of_idle hbusy, ?_⟩
      rw [List.length_cons]; omega
    | true =>
      have hleft : (s.pollTurn n).phase.remaining = s.phase.remaining - n := engineTurns_remaining n s
      have hpos : s.phase.remaining - n ≠ 0 := by
        rw [← engineTurns_remaining]
        exact mt (remaining_eq_zero_iff _).mp (busy_eq_true_iff.mp hbusy)
      rw [List.length_cons] at hlen ⊢
      obtain ⟨left, p, hpolled, hdrive, hused⟩ := ih (s := s.pollTurn n) hturns' (by omega) (by omega)
      exact ⟨left, p, hpolled.cons hbusy, (drive_poll_of_busy hbusy).trans hdrive, by omega⟩

/-! ### Programs issued while idle -/

theorem issueAfter_of_idle (n : Nat) (i : Instr) (hp : s.phase = .idle) :
    issueAfter n i s = exec (decodeBus (encode i).transaction) s := by
  rw [issueAfter_eq, engineTurns_of_idle n hp]

/-- Lines issued while idle, none of which starts an operation: each has its effect, whatever turns the engine has among
them. -/
theorem drive_issues {i : Fin 8 → Instr} {effect : Fin 8 → State → State}
    (hexec : ∀ j s, s.phase = .idle → exec (decodeBus (encode (i j)).transaction) s = .next (effect j s))
    (hphase : ∀ j s, (effect j s).phase = s.phase) (js : List (Fin 8)) (ops : List HostOp) (hp : s.phase = .idle)
    (hlen : js.length ≤ schedule.length) :
    drive schedule ((js.map i).map .issue ++ ops) s =
      drive (schedule.drop js.length) ops (js.foldl (fun t j => effect j t) s) := by
  induction js generalizing schedule s with
  | nil => rfl
  | cons j js ih =>
    cases schedule with
    | nil => exact absurd hlen (by simp)
    | cons n schedule =>
      have hissue : issueAfter n (i j) s = .next (effect j s) := (issueAfter_of_idle n _ hp).trans (hexec j s hp)
      rw [List.map_cons, List.map_cons, List.cons_append, drive_issue hissue,
        ih ((hphase j s).trans hp) (Nat.le_of_succ_le_succ hlen)]
      rfl

/-- The last line of a program part issued while idle, which may start an operation. -/
theorem drive_issue_of_idle {i : Instr} (hp : s.phase = .idle) (h : exec (decodeBus (encode i).transaction) s = .next t)
    (hlen : 1 ≤ schedule.length) : drive schedule (.issue i :: ops) s = drive (schedule.drop 1) ops t := by
  cases schedule with
  | nil => exact absurd hlen (by decide)
  | cons n schedule => exact drive_issue ((issueAfter_of_idle n i hp).trans h)

theorem writeBytes_phase {addr : Fin 8 → Addr} (haddr : ∀ j, selectReg (addr j) ≠ .cmd) (v : Block64)
    (js : List (Fin 8)) (s : State) : (writeBytes addr v js s).phase = s.phase := by
  induction js generalizing s with
  | nil => rfl
  | cons j js ih => rw [writeBytes_cons, ih, writeReg_phase_of_ne_cmd (haddr j)]

/-- A register is loaded and a command given, all while idle. -/
theorem drive_load {addr : Fin 8 → Addr} (haddr : ∀ j, selectReg (addr j) ≠ .cmd) (v : Block64) (op : CmdOp)
    (ops : List HostOp) (hp : s.phase = .idle) (hlen : 9 ≤ schedule.length) :
    drive schedule ((((List.finRange 8).map fun j => Instr.wr (addr j) (byteOf v j.val)) ++ [cmdWrite op]).map .issue ++
        ops) s =
      drive (schedule.drop 9) ops (performCommand op (writeBytes addr v (List.finRange 8) s)) := by
  have hwrite (j : Fin 8) (t : State) (ht : t.phase = .idle) :
      exec (decodeBus (encode (.wr (addr j) (byteOf v j.val))).transaction) t =
        .next (writeReg (selectReg (addr j)) (byteOf v j.val) t) := by
    rw [decodeBus_transaction_wr, exec_wr_of_idle _ _ (busy_eq_false_iff.mpr ht)]
  have hloaded : (writeBytes addr v (List.finRange 8) s).phase = .idle := (writeBytes_phase haddr v _ s).trans hp
  have hcommand : exec (decodeBus (encode (cmdWrite op)).transaction) (writeBytes addr v (List.finRange 8) s) =
      .next (performCommand op (writeBytes addr v (List.finRange 8) s)) := by
    rw [cmdWrite, decodeBus_transaction_wr]
    exact (exec_wr_cmd_byte op _).trans (exec_toInstr_of_idle op (busy_eq_false_iff.mpr hloaded))
  rw [List.map_append, List.append_assoc,
    drive_issues hwrite (fun j t => writeReg_phase_of_ne_cmd (haddr j) _ t) _ _ hp (by simp; omega)]
  refine (drive_issue_of_idle (s := writeBytes addr v (List.finRange 8) s) hloaded hcommand (by simp; omega)).trans ?_
  rw [List.drop_drop, List.length_finRange]
  rfl

/-- Loading a key while idle: KEYSCHED is accepted for it (R292). -/
theorem drive_bootSequence (k : Block64) (hp : s.phase = .idle) (hlen : 9 ≤ schedule.length) :
    drive schedule (bootSequence k) s =
      drive (schedule.drop 9) [.poll] (acceptKeysched { s with key := k, ksv := false }) := by
  rw [← writeBytes_keyAddr_all k s]
  exact drive_load selectReg_keyAddr_ne_cmd k .keysched [.poll] hp hlen

/-- The lines of a block that follow its `POLL`. -/
def unloadSequence : List HostOp := (rdData ++ [Instr.rd statusAddr]).map .issue

/-- Loading a block while idle: its command is accepted, or refused for want of subkeys. -/
theorem drive_blockSequence (d : Block64) (mode : Mode) (hp : s.phase = .idle) (hlen : 9 ≤ schedule.length) :
    drive schedule (blockSequence d mode) s =
      drive (schedule.drop 9) (.poll :: unloadSequence) (acceptCipher mode { s with data := d }) := by
  have haccept : acceptCipher mode = performCommand mode.command := by cases mode <;> rfl
  rw [← writeBytes_dataAddr_all d s, haccept]
  exact drive_load selectReg_dataAddr_ne_cmd d mode.command (.poll :: unloadSequence) hp hlen

/-- The block once `RDDATA` and the read of STATUS after it have been issued while idle. -/
def State.unload (s : State) : State :=
  { s with reads := s.reads ++ (List.finRange 8).map (fun j => byteOf s.data j.val) ++ [statusByte s] }

theorem readDataBytes_eq (js : List (Fin 8)) (s : State) :
    js.foldl (fun (t : State) j => { t with reads := t.reads ++ [byteOf t.data j.val] }) s =
      { s with reads := s.reads ++ js.map fun j => byteOf s.data j.val } := by
  induction js generalizing s with
  | nil => rw [List.map_nil, List.append_nil]; rfl
  | cons j js ih => rw [List.foldl_cons, ih, List.map_cons, List.append_assoc, List.singleton_append]

theorem drive_unloadSequence (hp : s.phase = .idle) (hlen : 9 ≤ schedule.length) :
    drive schedule unloadSequence s = .finished s.unload (schedule.drop 9) := by
  have hread (j : Fin 8) (t : State) (ht : t.phase = .idle) :
      exec (decodeBus (encode (.rd (dataAddr j))).transaction) t =
        .next { t with reads := t.reads ++ [byteOf t.data j.val] } := by
    rw [encode, EncodedWord.transaction, decodeBus_encodeRd,
      exec_rd_of_byte (readReg_dataAddr_of_idle j (busy_eq_false_iff.mpr ht))]
  have hstatus (t : State) : exec (decodeBus (encode (.rd statusAddr)).transaction) t =
      .next { t with reads := t.reads ++ [statusByte t] } := by
    rw [encode, EncodedWord.transaction, decodeBus_encodeRd, exec_rd_statusAddr]
  rw [unloadSequence, rdData, List.map_append,
    drive_issues hread (fun _ _ => rfl) _ _ hp (by simp; omega), readDataBytes_eq]
  refine (drive_issue_of_idle (t := s.unload) ?_ (hstatus _) ?_).trans ?_
  · exact hp
  · rw [List.length_drop, List.length_finRange]; omega
  · rw [List.map_nil, drive_nil, List.drop_drop, List.length_finRange]

theorem lastRead_unload (s : State) : lastRead s.unload = statusByte s := by
  simp [lastRead, State.unload]

/-- The bytes that `RDDATA` has returned are the block in DATA. -/
theorem resultBlock_unload (s : State) : resultBlock s.unload = s.data := by
  have hbytes : s.unload.reads.drop (s.unload.reads.length - 9) =
      (List.finRange 8).map (fun j => byteOf s.data j.val) ++ [statusByte s] := by
    simp [State.unload]
  refine eq_of_byteOf_eq fun j => ?_
  rw [resultBlock, hbytes, byteOf_packBytes]
  simp [List.getD_eq_getElem?_getD, List.getElem?_append]

theorem resultUsable_statusByte (s : State) : resultUsable (statusByte s) = (!s.busy && !s.err) := by
  rw [resultUsable, pollEnds_statusByte, getLsbD_statusByte]; rfl

/-! ### The operations of a program -/

/-- The `POLL` after a KEYSCHED ends with the key schedule of its key. -/
theorem Polled.of_acceptKeysched (h : Polled schedule left (acceptKeysched s) p) :
    p.ksv = true ∧ p.ks = keySchedule s.key := by
  obtain ⟨-, -, eks, eksv, -⟩ := elements_eq_of_engineView_eq h.view
  obtain ⟨hks, hksv, -, -⟩ := engineTurns_of_ksSplit (acceptKeysched_phase s) (acceptKeysched_ksv s)
  exact ⟨eksv.trans hksv, eks.trans hks⟩

/-- The `POLL` after a cipher command ends with Crypt of its block. -/
theorem Polled.of_ciInit (hp : s.phase = .ciInit) (h : Polled schedule left s p) :
    p.data = crypt s.data s.ks s.mode ∧ p.ks = s.ks ∧ p.ksv = s.ksv := by
  have hcompleted : s.completed = engineTurns 18 s := by rw [State.completed, hp]; rfl
  obtain ⟨-, edata, eks, eksv, -⟩ := elements_eq_of_engineView_eq h.view
  rw [hcompleted] at edata eks eksv
  obtain ⟨hdata, -, -, hks, hksv⟩ := engineTurns_of_ciInit hp
  exact ⟨edata.trans hdata, eks.trans hks, eksv.trans hksv⟩

/-! ### What a trusted result is -/

theorem keyAddr_ne_cmdAddr (j : Fin 8) : keyAddr j ≠ 0x10 := by revert j; decide

theorem bootSequence_keepsError (k : Block64) : ∀ op ∈ bootSequence k, op.keepsError := by
  have hwrite {addr : Addr} {data : Byte} (h : Instr.wr addr data ≠ .wr 0x10 0x04) :
      (HostOp.issue (.wr addr data)).keepsError := by
    rwa [HostOp.keepsError, HostOp.instr, decodeBus_transaction_wr]
  have hpoll : HostOp.poll.keepsError := by
    rw [HostOp.keepsError, HostOp.instr, pollRead, encode, EncodedWord.transaction, decodeBus_encodeRd]
    exact Instr.noConfusion
  simp only [bootSequence, wrKey, List.map_append, List.map_map, List.mem_append, List.mem_map, List.mem_singleton]
  rintro op ((⟨j, -, rfl⟩ | ⟨i, rfl, rfl⟩) | rfl)
  · exact hwrite fun e => keyAddr_ne_cmdAddr j (Instr.wr.inj e).1
  · exact hwrite (by decide)
  · exact hpoll

/-- Turns of the engine that come before the first line, and leave the block idle, might have come before the
program. -/
theorem drive_of_idle_after {n : Nat} {op : HostOp} (h : (engineTurns n s).phase = .idle) :
    drive (n :: schedule) (op :: ops) s = drive (n :: schedule) (op :: ops) (engineTurns n s) := by
  have hissue : issueAfter n op.instr s = issueAfter n op.instr (engineTurns n s) := by
    rw [issueAfter_eq, issueAfter_of_idle n _ h]
  simp only [drive, hissue]

/-- A boot that ends without an error has loaded the key schedule of its key: had the block been busy at the first
write, that write would have been refused, and its error recorded to the end. -/
theorem subkeys_of_bootSequence {k : Block64} (h : drive schedule (bootSequence k) s = .finished t left)
    (herr : t.err = false) : t.ks = keySchedule k := by
  have hlen : 10 ≤ schedule.length := length_le_of_finished h
  obtain ⟨n, schedule, rfl⟩ := List.exists_cons_of_length_pos (Nat.lt_of_lt_of_le (by decide) hlen)
  obtain ⟨ops, hops⟩ : ∃ ops, bootSequence k = .issue (.wr (keyAddr 0) (byteOf k 0)) :: ops := ⟨_, rfl⟩
  have hidle : (engineTurns n s).phase = .idle := by
    by_contra hbusy
    have hrefused : issueAfter n (.wr (keyAddr 0) (byteOf k 0)) s =
        .next (raiseError .busyWrite (engineTurns n s)) := by
      rw [issueAfter_eq, decodeBus_transaction_wr, exec_wr_of_busy _ _ (busy_eq_true_iff.mpr hbusy)]
    have hkeep := bootSequence_keepsError k
    rw [hops, drive_issue hrefused] at h
    rw [hops] at hkeep
    have hset := drive_err_of_set (fun op hop => hkeep op (List.mem_cons_of_mem _ hop)) h (raiseError_err _ _)
    rw [herr] at hset
    cases hset
  rw [hops, drive_of_idle_after hidle, ← hops, drive_bootSequence k hidle (by omega)] at h
  obtain ⟨mid, p, hpolled, hdrive⟩ := exists_polled_of_finished h
  obtain ⟨rfl, -⟩ := Driven.finished.inj ((drive_nil mid p).symm.trans hdrive)
  obtain ⟨-, hks⟩ := hpolled.of_acceptKeysched
  exact hks

theorem phase_of_bootSequence {k : Block64} (h : drive schedule (bootSequence k) s = .finished t left) :
    t.phase = .idle := by
  obtain ⟨mid, u, -, hpoll⟩ := exists_finished_of_append h
  obtain ⟨mid', p, hpolled, hdrive⟩ := exists_polled_of_finished hpoll
  obtain ⟨rfl, -⟩ := Driven.finished.inj ((drive_nil mid' p).symm.trans hdrive)
  exact hpolled.phase_eq

/-- A block whose result is trusted was begun without an error and with valid subkeys, and its result is Crypt. -/
theorem trusted_blockSequence {d : Block64} {mode : Mode} (hp : s.phase = .idle)
    (h : drive schedule (blockSequence d mode) s = .finished t left) (husable : resultUsable (lastRead t) = true) :
    s.err = false ∧ t.phase = .idle ∧ t.ks = s.ks ∧ resultBlock t = crypt d s.ks mode := by
  have hlen : 19 ≤ schedule.length := length_le_of_finished h
  rw [drive_blockSequence d mode hp (by omega)] at h
  obtain ⟨mid, p, hpolled, hdrive⟩ := exists_polled_of_finished h
  rw [drive_unloadSequence hpolled.phase_eq (length_le_of_finished hdrive)] at hdrive
  obtain ⟨rfl, -⟩ := Driven.finished.inj hdrive
  rw [lastRead_unload, resultUsable_statusByte, Bool.and_eq_true, Bool.not_eq_true', Bool.not_eq_true', hpolled.err,
    acceptCipher_err, Bool.or_eq_false_iff, Bool.not_eq_false'] at husable
  obtain ⟨-, hksv, herr⟩ := husable
  rw [acceptCipher_of_valid mode hksv] at hpolled
  obtain ⟨hdata, hks, -⟩ := hpolled.of_ciInit rfl
  exact ⟨herr, hpolled.phase_eq, hks, (resultBlock_unload p).trans hdata⟩

/-- A stream is trusted block by block, and each of its blocks leaves the subkeys to the next. -/
theorem trusted_driveBlocks {ks : SubkeyFile} {mode : Mode} {blocks out : List Block64} (hp : s.phase = .idle)
    (hks : s.err = false → s.ks = ks) (h : driveBlocks mode blocks schedule s = .ok (out, t, left)) :
    out = blocks.map fun x => crypt x ks mode := by
  induction blocks generalizing schedule s out with
  | nil =>
    obtain ⟨rfl, -⟩ := Prod.mk.inj (Except.ok.inj h)
    rfl
  | cons d blocks ih =>
    rw [driveBlocks] at h
    cases hdrive : drive schedule (blockSequence d mode) s with
    | waiting w => rw [hdrive] at h; cases h
    | fault f => rw [hdrive] at h; cases h
    | refused r => rw [hdrive] at h; cases h
    | finished u mid =>
      rw [hdrive] at h
      dsimp only at h
      split at h
      next husable =>
        obtain ⟨herr, hu, huks, hresult⟩ := trusted_blockSequence hp hdrive husable
        cases hrest : driveBlocks mode blocks mid u with
        | error e => rw [hrest] at h; cases h
        | ok result =>
          obtain ⟨out', t', left'⟩ := result
          rw [hrest] at h
          obtain ⟨rfl, htail⟩ := Prod.mk.inj (Except.ok.inj h)
          obtain ⟨rfl, rfl⟩ := Prod.mk.inj htail
          rw [List.map_cons, hresult, hks herr, ih hu (fun _ => huks.trans (hks herr)) hrest]
      next => cases h

theorem trusted_driveStream {text : List Byte} {mode : Mode} {blocks out : List Block64}
    (h : driveStream text mode blocks schedule s = .ok (out, t, left)) :
    ∃ k, prepareKey text = .ok k ∧ out = blocks.map fun x => crypt x (keySchedule k) mode := by
  rw [driveStream] at h
  cases hk : prepareKey text with
  | error e => rw [hk] at h; cases h
  | ok k =>
    rw [hk] at h
    dsimp only at h
    cases hdrive : drive schedule (bootSequence k) s with
    | waiting w => rw [hdrive] at h; cases h
    | fault f => rw [hdrive] at h; cases h
    | refused r => rw [hdrive] at h; cases h
    | finished u mid =>
      rw [hdrive] at h
      exact ⟨k, rfl, trusted_driveBlocks (phase_of_bootSequence hdrive) (subkeys_of_bootSequence hdrive) h⟩

/-! ### The driver comes to its end -/

/-- The block is ready for a block of the stream: idle, with valid subkeys and no error recorded. -/
structure Ready (s : State) : Prop where
  idle : s.phase = .idle
  ksv : s.ksv = true
  err : s.err = false

/-- A schedule that gives the engine a turn before each transaction. -/
def EveryTurn (schedule : List Nat) : Prop := ∀ turns ∈ schedule, 1 ≤ turns

theorem EveryTurn.of_suffix (h : EveryTurn schedule) (hs : left <:+ schedule) : EveryTurn left :=
  fun turns hturns => h turns (hs.subset hturns)

/-- Nine transactions load the key, and the seventeen steps of KEYSCHED end its `POLL` within seventeen reads. -/
theorem exists_finished_bootSequence (k : Block64) (hp : s.phase = .idle) (herr : s.err = false)
    (hturns : EveryTurn schedule) (hlen : 26 ≤ schedule.length) :
    ∃ t left, drive schedule (bootSequence k) s = .finished t left ∧ Ready t ∧ left <:+ schedule ∧
      schedule.length ≤ left.length + 26 := by
  have hdrop := List.drop_suffix 9 schedule
  have hdropLen : (schedule.drop 9).length = schedule.length - 9 := List.length_drop
  obtain ⟨left, p, hpolled, hdrive, hused⟩ := exists_polled_of_turns (schedule := schedule.drop 9)
    (s := acceptKeysched { s with key := k, ksv := false }) [] (hturns.of_suffix hdrop) (by omega)
    (show 17 ≤ _ by omega)
  have h17 : max 1 (acceptKeysched { s with key := k, ksv := false }).phase.remaining = 17 := rfl
  obtain ⟨hksv, -⟩ := hpolled.of_acceptKeysched
  refine ⟨p, left, ?_, ⟨hpolled.phase_eq, hksv, hpolled.err.trans herr⟩, hpolled.suffix.trans hdrop, by omega⟩
  rw [drive_bootSequence k hp (by omega), hdrive, drive_nil]

/-- Nine transactions load the block, the eighteen steps of the operation end its `POLL` within eighteen reads, and nine
reads take the result. -/
theorem exists_finished_blockSequence (d : Block64) (mode : Mode) (hs : Ready s) (hturns : EveryTurn schedule)
    (hlen : 36 ≤ schedule.length) :
    ∃ t left, drive schedule (blockSequence d mode) s = .finished t left ∧ resultUsable (lastRead t) = true ∧ Ready t ∧
      left <:+ schedule ∧ schedule.length ≤ left.length + 36 := by
  have hdrop := List.drop_suffix 9 schedule
  have hdropLen : (schedule.drop 9).length = schedule.length - 9 := List.length_drop
  have haccept : acceptCipher mode { s with data := d } =
      { s with data := d, mode := mode, done := false, phase := .ciInit } :=
    acceptCipher_of_valid (s := { s with data := d }) mode hs.ksv
  obtain ⟨left, p, hpolled, hdrive, hused⟩ := exists_polled_of_turns (schedule := schedule.drop 9)
    (s := { s with data := d, mode := mode, done := false, phase := .ciInit }) unloadSequence
    (hturns.of_suffix hdrop) (by omega) (show 18 ≤ _ by omega)
  have h18 : max 1 ({ s with data := d, mode := mode, done := false, phase := .ciInit } : State).phase.remaining = 18 :=
    rfl
  obtain ⟨-, -, hksv⟩ := hpolled.of_ciInit rfl
  have hready : Ready p := ⟨hpolled.phase_eq, hksv.trans hs.ksv, hpolled.err.trans hs.err⟩
  refine ⟨p.unload, left.drop 9, ?_, ?_, ⟨hready.idle, hready.ksv, hready.err⟩,
    (List.drop_suffix 9 left).trans (hpolled.suffix.trans hdrop), by rw [List.length_drop]; omega⟩
  · rw [drive_blockSequence d mode hs.idle (by omega), haccept, hdrive, drive_unloadSequence hready.idle (by omega)]
  · rw [lastRead_unload, resultUsable_statusByte, busy_eq_false_iff.mpr hready.idle, hready.err]
    rfl

theorem exists_ok_driveBlocks (mode : Mode) (blocks : List Block64) (hs : Ready s) (hturns : EveryTurn schedule)
    (hlen : 36 * blocks.length ≤ schedule.length) :
    ∃ out t left, driveBlocks mode blocks schedule s = .ok (out, t, left) := by
  induction blocks generalizing schedule s with
  | nil => exact ⟨[], s, schedule, rfl⟩
  | cons d blocks ih =>
    rw [List.length_cons] at hlen
    obtain ⟨t, left, hdrive, husable, ht, hsuffix, hused⟩ :=
      exists_finished_blockSequence d mode hs hturns (by omega)
    obtain ⟨out, t', left', hrest⟩ := ih ht (hturns.of_suffix hsuffix) (by omega)
    refine ⟨resultBlock t :: out, t', left', ?_⟩
    rw [driveBlocks, hdrive]
    dsimp only
    rw [if_pos husable, hrest]
    rfl

/-- Settles O60: `POLL` ends with the operation in progress completed; an error made by any write of the stream stays to
the check of its block; and with a turn of the engine before each transaction every `POLL` ends in time. -/
theorem trustedDriverResultIsTheCipher : Obligations.TrustedDriverResultIsTheCipher := by
  unfold Obligations.TrustedDriverResultIsTheCipher
  refine ⟨fun schedule left s t h => ?poll, fun text mode blocks out schedule left s t => trusted_driveStream,
    fun text mode blocks schedule s hfits hidle herr hturns hlen => ?ends⟩
  case poll =>
    obtain ⟨mid, p, hpolled, hdrive⟩ := exists_polled_of_finished h
    obtain ⟨rfl, rfl⟩ := Driven.finished.inj ((drive_nil mid p).symm.trans hdrive)
    exact ⟨hpolled.phase_eq, hpolled.reads⟩
  case ends =>
    obtain ⟨t, left, hdrive, ht, hsuffix, hused⟩ :=
      exists_finished_bootSequence (packBytes text) (busy_eq_false_iff.mp hidle) herr hturns (by omega)
    obtain ⟨out, t', left', hblocks⟩ :=
      exists_ok_driveBlocks mode blocks ht (EveryTurn.of_suffix hturns hsuffix) (by omega)
    refine ⟨out, t', left', ?_⟩
    rw [driveStream, prepareKey_of_fits hfits]
    dsimp only
    rw [hdrive]
    exact hblocks

end Sys2Proof.Machine
end
